-- ==== Sys2Proof/Word.lean ====
section
/-! DEFINITION. The words the spec treats as bits: bytes, 32-bit and 64-bit unsigned words (00_scope.md R10, R11).
Addition `+` on them wraps modulo 2^w, `&&&`, `|||`, `^^^`, `~~~`, `<<<` and `>>>` are the spec's `&`, `|`, `^`, `~`,
`<<` and `>>`. -/

namespace Sys2Proof

/-- A byte: an 8-bit unsigned value (R10). -/
abbrev Byte := BitVec 8

/-- `w32` of R10: a register value, an MD5, SHA-1 or SHA-256 word. -/
abbrev Word32 := BitVec 32

/-- `w64` of R10: an address or length register, a SHA-512 word. -/
abbrev Word64 := BitVec 64

end Sys2Proof
end

