-- ==== Sys2Proof/Syntax.lean ====
section
/-! DEFINITION. The six commands of spec/opcode_table.json (30_encoding.md R72). A command has no operand in its word:
its operands are registers (R74). -/

namespace Sys2Proof

/-- One constructor per row of the opcode map (R72). -/
inductive Instr where
  /-- HASH.MD5, word 0x00000011 (42_md5.md R140) -/
  | hashMd5
  /-- HASH.SHA1, word 0x00000012 (43_sha1.md R160) -/
  | hashSha1
  /-- HASH.SHA224, word 0x00000013 (44_sha256.md R180) -/
  | hashSha224
  /-- HASH.SHA256, word 0x00000014 (44_sha256.md R181) -/
  | hashSha256
  /-- HASH.SHA384, word 0x00000015 (45_sha512.md R210) -/
  | hashSha384
  /-- HASH.SHA512, word 0x00000016 (45_sha512.md R211) -/
  | hashSha512
  deriving DecidableEq, Repr

end Sys2Proof
end

