-- ==== Sys2Proof/Config.lean ====
section
/-! DEFINITION. What a platform fixes (00_scope.md R6, 20_memory.md R52, R59) and the free values of the spec
(40_pipeline.md R94, 60_exceptions.md R250). The platform parameters are plain data, held in the state and changed by no
step, so a statement about every state is a statement about every platform (DESIGN CHOICE, log 1). -/

namespace Sys2Proof

/-- A range of memory addresses: `size` bytes from `base` upward. -/
structure Region where
  base : Nat
  size : Nat
  deriving DecidableEq, Repr

/-- The parameters of R6 that are one value per platform, and the platform's address predicates.
`refused` lists the addresses whose read the memory refuses (R52: not backed, or protected), `sideEffect` those whose
read has a side effect (R59). N_ENGINES and REG_BASE(i) are the length and the `regBase` fields of the state's list of
engines. -/
structure Platform where
  /-- `ADDR_W` -/
  addrW : Nat
  /-- `alloc_may_fail` -/
  allocMayFail : Bool
  refused : List Region
  sideEffect : List Region
  deriving DecidableEq, Repr

/-- The defaults of R6: ADDR_W = 64, `alloc_may_fail` = false; no refused and no side-effect address. -/
def Platform.default : Platform :=
  { addrW := 64, allocMayFail := false, refused := [], sideEffect := [] }

/-- DESIGN CHOICE (log 3, unsafe): what a byte of memory that nothing has written reads as. -/
def Config.unlistedByte : Byte := 0x00#8

/-- The free Boolean draw `draw_alloc_fail` of R94, applied to the count of draws taken (DESIGN CHOICE, log 7). No value of it can be
proved. -/
opaque Config.allocDraw : Nat → Bool

/-- The digest of a command that finishes with `race` set is any value (R250, 93 U9): its byte `i`, applied to the count
of draws taken and to `i` (DEDUCED, log 8). No value of it can be proved. -/
opaque Config.raceDigest : Nat → Nat → Byte

end Sys2Proof
end

