-- ==== Sys2Proof/WellFormed.lean ====
section
/-! DEFINITION. What is well formed: an instruction, a register access (10_state.md R41), a platform (00_scope.md R6). -/

namespace Sys2Proof

/-- A command carries no operand (30_encoding.md R74), so every one of the six is well formed. -/
def Instr.wellFormed : Instr → Bool
  | .hashMd5 => true
  | .hashSha1 => true
  | .hashSha224 => true
  | .hashSha256 => true
  | .hashSha384 => true
  | .hashSha512 => true

/-- The size of a register block in bytes (10_state.md R20). -/
def regBlockBytes : Nat := 0x80

/-- R41: a register access is 32 bits (4 bytes) wide, at an offset that is a multiple of 4 and below 0x80. -/
def regAccessOk (off width : Nat) : Bool :=
  width == 4 && off % 4 == 0 && decide (off < regBlockBytes)

/-- R6: ADDR_W is from 1 to 64. -/
def Platform.wellFormed (p : Platform) : Bool :=
  decide (1 ≤ p.addrW) && decide (p.addrW ≤ 64)

/-- R6: a legal platform has one or more instances, one for each REG_BASE. -/
def Platform.legal (p : Platform) (regBases : List Nat) : Bool :=
  p.wellFormed && !regBases.isEmpty

end Sys2Proof
end

