-- ==== Sys2Proof/Decode.lean ====
section
/-! DEFINITION. The command encoding: the fields of a command word (30_encoding.md R70, R71), the total decoder (R77) and
the encoder (R72). -/

namespace Sys2Proof

/-- Why a command word is undefined (R73): a nonzero RSV field, an OP other than HASH, or an ALG that names no
algorithm. The machine reports every one of them as UnsupportedAlgorithm; the three names are the model's (DESIGN CHOICE,
log 21). -/
inductive Undefined where
  | reservedBits
  | operation
  | algorithm
  deriving DecidableEq, Repr

/-- RSV, bits [31:8] (R70). -/
def cmdRsv (v : Word32) : BitVec 24 := v.extractLsb' 8 24

/-- OP, bits [7:4] (R70). -/
def cmdOp (v : Word32) : BitVec 4 := v.extractLsb' 4 4

/-- ALG, bits [3:0] (R70). -/
def cmdAlg (v : Word32) : BitVec 4 := v.extractLsb' 0 4

/-- OP = 0x1, HASH: the only operation (R70). -/
def opHash : BitVec 4 := 0x1#4

/-- The ALG field's table (R71). -/
def decodeAlg (a : BitVec 4) : Except Undefined Instr :=
  match a.toNat with
  | 1 => .ok .hashMd5
  | 2 => .ok .hashSha1
  | 3 => .ok .hashSha224
  | 4 => .ok .hashSha256
  | 5 => .ok .hashSha384
  | 6 => .ok .hashSha512
  | _ => .error .algorithm

/-- R77: total on 32-bit words. -/
def decode (v : Word32) : Except Undefined Instr :=
  if cmdRsv v ≠ 0 then .error .reservedBits
  else if cmdOp v ≠ opHash then .error .operation
  else decodeAlg (cmdAlg v)

/-- The ALG field of each command (R71, R72). -/
def Instr.algField : Instr → BitVec 4
  | .hashMd5 => 0x1#4
  | .hashSha1 => 0x2#4
  | .hashSha224 => 0x3#4
  | .hashSha256 => 0x4#4
  | .hashSha384 => 0x5#4
  | .hashSha512 => 0x6#4

/-- The command word of an instruction: RSV = 0, OP = HASH, ALG (R70, R72). -/
def encode (i : Instr) : Word32 := 0#24 ++ opHash ++ i.algField

/-- The instruction the decoder reads from the low `nbits` bits of `w`, every bit above them 0. A command is one 32-bit
word (R70), so nothing is laid out in memory. -/
def decodeTableWord (nbits w : Nat) : Option Instr :=
  match decode (BitVec.ofNat 32 (w % 2 ^ nbits)) with
  | .ok i => some i
  | .error _ => none

end Sys2Proof
end

