-- ==== Sys2Proof/Machine/State.lean ====
section
/-! DEFINITION. The state of the machine as plain data (10_state.md R20 to R45, 20_memory.md R50): the platform, the
memory, the digest-core instances with their register blocks and contexts, and what the host and the platform are still
to do. -/

namespace Sys2Proof.Machine

/-- The six algorithm variants (00_scope.md R1, R3). -/
inductive Alg where
  | md5 | sha1 | sha224 | sha256 | sha384 | sha512
  deriving DecidableEq, Repr

/-- Four 32-bit words: MD5's H[0..3], and its working variables a, b, c, d (42_md5.md R141, R147). -/
structure Words4 where
  (a b c d : Word32)
  deriving DecidableEq, Repr

/-- Five 32-bit words: SHA-1's H[0..4], and its working variables a to e (43_sha1.md R161, R166). -/
structure Words5 where
  (a b c d e : Word32)
  deriving DecidableEq, Repr

/-- Eight words of width `w`: H[0..7] and the working variables a to h, of SHA-256 at w = 32 (44_sha256.md R184) and of
SHA-512 at w = 64 (45_sha512.md R214). -/
structure Words8 (w : Nat) where
  (a b c d e f g h : BitVec w)
  deriving DecidableEq, Repr

/-- `ctx.alg` and `ctx.H` together: NW(alg) words of width w(alg) for the algorithm of the command (10_state.md R30), so
that the words always fit the algorithm. -/
inductive HState where
  | md5 (h : Words4)
  | sha1 (h : Words5)
  | sha224 (h : Words8 32)
  | sha256 (h : Words8 32)
  | sha384 (h : Words8 64)
  | sha512 (h : Words8 64)
  deriving DecidableEq, Repr

/-- `ctx.alg`: the algorithm whose state this is. -/
def HState.alg : HState → Alg
  | .md5 _ => .md5
  | .sha1 _ => .sha1
  | .sha224 _ => .sha224
  | .sha256 _ => .sha256
  | .sha384 _ => .sha384
  | .sha512 _ => .sha512

/-- The context of the command in progress (10_state.md R30). -/
structure Ctx where
  /-- the message address latched at acceptance -/
  base : Nat
  /-- the message length in bytes latched at acceptance -/
  len : Nat
  /-- the number of padded blocks -/
  nblk : Nat
  /-- the number of blocks compressed so far -/
  blk : Nat
  /-- `ctx.alg` and `ctx.H` -/
  h : HState
  deriving DecidableEq, Repr

/-- `ctx.alg` (R30). -/
def Ctx.alg (c : Ctx) : Alg := c.h.alg

/-- `st.phase` (10_state.md R23). The context is present if and only if the phase is BUSY (R30, R36), so BUSY carries
it. -/
inductive Phase where
  | idle
  | busy (ctx : Ctx)
  | done
  deriving DecidableEq, Repr

/-- The result codes that are ever produced (10_state.md R24); codes 4 to 15 are not. -/
inductive Result where
  | ok
  | allocationFailure
  | unsupportedAlgorithm
  | accessFault
  deriving DecidableEq, Repr

/-- One digest-core instance: `st` of 10_state.md R30, its REG_BASE (00_scope.md R6) and the model's flag `race`
(60_exceptions.md R250). -/
structure Engine where
  /-- `REG_BASE(i)`, a parameter: no step changes it -/
  regBase : Nat
  phase : Phase
  /-- the CMD register -/
  cmd : Word32
  /-- MSG_BASE_HI and MSG_BASE_LO -/
  msgBase : Word64
  /-- MSG_LEN_HI and MSG_LEN_LO -/
  msgLen : Word64
  /-- STATUS.RESULT -/
  result : Result
  /-- STATUS.DLEN -/
  dlen : BitVec 8
  /-- `D[0..63]` behind DIGEST0..15 -/
  digest : Vector Byte 64
  /-- MessageRace recorded for the command in progress or just finished -/
  race : Bool
  deriving DecidableEq, Repr

/-- The registers of the block (10_state.md R20). -/
inductive Reg where
  | cmd
  | status
  | msgBaseLo
  | msgBaseHi
  | msgLenLo
  | msgLenHi
  /-- offsets 0x18 to 0x3C -/
  | reserved
  | digest (k : Fin 16)
  deriving DecidableEq, Repr

/-- One step of a host (00_scope.md R9, 30_encoding.md R76). A register access names a register-space address (a natural
number: DESIGN CHOICE, log 22) and a width in bytes. -/
inductive Event where
  /-- WR: a host write of a register -/
  | regWrite (addr width : Nat) (v : Word32)
  /-- RD: a host read of a register, recorded -/
  | regRead (addr width : Nat)
  /-- POLL of instance `inst`: RD STATUS until BUSY = 0 -/
  | poll (inst : Nat)
  /-- MEMWR of one byte -/
  | memWrite (addr : Nat) (b : Byte)
  /-- a host read of one byte of memory, recorded -/
  | memRead (addr : Nat)
  deriving DecidableEq, Repr

/-- Whose turn it is: host `h` (its next event), the platform (its next reset event), or engine `i` (20_memory.md R63,
DESIGN CHOICE, log 4). -/
inductive Turn where
  | host (h : Nat)
  | platform
  | engine (i : Nat)
  deriving DecidableEq, Repr

/-- The `info` of `raise E(info)` (60_exceptions.md R241, R244). No register shows it. -/
inductive Info where
  | nothing
  | range
  | addr (a : Nat)
  deriving DecidableEq, Repr

/-- The model's log of what the engines did: bytes read, in order (20_memory.md R53), and errors raised with their info
(60_exceptions.md R241; DESIGN CHOICE, log 13). -/
inductive TraceEntry where
  | read (inst addr : Nat)
  | raised (inst : Nat) (result : Result) (info : Info)
  deriving DecidableEq, Repr

/-- Memory as pairs of address and byte, addresses strictly rising, no pair holding the byte an unlisted address reads
as (20_memory.md R50, DESIGN CHOICE, log 3). -/
abbrev Memory := List Host.Cell

/-- The whole machine. -/
structure State where
  /-- the platform's parameters: no step changes them -/
  plat : Platform
  /-- `Mem` (20_memory.md R50) -/
  mem : Memory
  /-- the instances 0 to N_ENGINES - 1 (60_exceptions.md R260) -/
  engines : List Engine
  /-- the model's own: the instance whose CMD register the current host write addresses (DESIGN CHOICE, log 15) -/
  sel : Nat
  /-- the model's own: what each host is still to do, in its program's order (DESIGN CHOICE, log 4) -/
  hosts : List (List Event)
  /-- the model's own: the instances the platform is still to reset, in order (DESIGN CHOICE, log 4) -/
  resets : List Nat
  /-- the model's own: whose turn comes next; when it is empty the default order holds (DESIGN CHOICE, log 4) -/
  sched : List Turn
  /-- the values host reads returned, the oldest first (30_encoding.md R76, DESIGN CHOICE, log 14) -/
  recorded : List Word32
  /-- the model's own log, the oldest first (DESIGN CHOICE, log 13) -/
  trace : List TraceEntry
  /-- the model's own: free values taken so far (DESIGN CHOICE, log 7, DEDUCED, log 8) -/
  draws : Nat
  deriving DecidableEq, Repr

/-- Why the machine stops with a fault: never. The core reports its errors in STATUS and runs on (60_exceptions.md R240,
R241), MessageRace is a flag of the instance (R250), and every other way out of the model is a refusal (R251). Safe. -/
inductive Fault where
  deriving DecidableEq, Repr

/-- Why the model has no step. -/
inductive Refusal where
  /-- Raised by exec's arms for an instruction without a meaning: none in this model. Safe. -/
  | notModelled (mnemonic : String)
  /-- Raised by a register access that is not an aligned 32-bit access inside a register block (10_state.md R41,
  60_exceptions.md R251). Safe: the spec has no step for it (DEDUCED, log 10). -/
  | registerAccess (addr width : Nat)
  /-- Raised by a step that names an instance the platform does not have. Safe: no such register block exists
  (60_exceptions.md R260, DEDUCED, log 10). -/
  | noSuchInstance (inst : Nat)
  /-- Raised by command acceptance when the message range covers memory with read side effects (20_memory.md R59,
  60_exceptions.md R251). Safe: the spec gives it no meaning (DESIGN CHOICE, log 9). -/
  | sideEffectMemory (base len : Nat)
  /-- Raised by a host memory access outside `[0, 2^ADDR_W)`, addresses that do not exist (20_memory.md R50; a refusal by
  60_exceptions.md R251). Safe: the model stops where the spec has no step (DEDUCED, log 11). -/
  | outsideMemory (addr : Nat)
  deriving DecidableEq, Repr

/-- D with all 64 bytes 0x00. -/
def zeroDigest : Vector Byte 64 := Vector.replicate 64 0x00#8

/-- The reset values of 10_state.md R42, at the given REG_BASE; `race` is clear (70_reset_and_hazards.md R270). -/
def Engine.reset (regBase : Nat) : Engine :=
  { regBase := regBase
    phase := .idle
    cmd := 0x00000000#32
    msgBase := 0x0000000000000000#64
    msgLen := 0x0000000000000000#64
    result := .ok
    dlen := 0x00#8
    digest := zeroDigest
    race := false }

/-- The machine right after reset on any platform: one instance in reset at each REG_BASE of the list, memory as given
(70_reset_and_hazards.md R271; reset does not change memory, R270). -/
def State.resetOn (plat : Platform) (regBases : List Nat) (mem : Memory) : State :=
  { plat := plat
    mem := mem
    engines := regBases.map Engine.reset
    sel := 0
    hosts := []
    resets := []
    sched := []
    recorded := []
    trace := []
    draws := 0 }

/-- The machine right after reset on the default platform of 00_scope.md R6: one instance, its REG_BASE 0 (DESIGN CHOICE, log 2), no
byte of memory listed (DESIGN CHOICE, log 3), nothing for the host to do (DESIGN CHOICE, log 6). -/
def State.reset : State := State.resetOn Platform.default [0] []

end Sys2Proof.Machine
end

