-- ==== Sys2Proof/Machine/Operands.lean ====
section
/-! DEFINITION. Rotations (00_scope.md R12), the word loaders (40_pipeline.md R100 to R102), words as bytes
(R103), the two halves of a 64-bit register (20_memory.md R56) and the latched operands of a command (30_encoding.md
R74). -/

namespace Sys2Proof.Machine

/-- `rotl_w(x, n)` of R12, for 0 < n < w. -/
def rotl {w : Nat} (x : BitVec w) (n : Nat) : BitVec w := (x <<< n) ||| (x >>> (w - n))

/-- `rotr_w(x, n)` of R12, for 0 < n < w. -/
def rotr {w : Nat} (x : BitVec w) (n : Nat) : BitVec w := (x >>> n) ||| (x <<< (w - n))

/-- Byte `j` of a block. Every use below stays inside the block. -/
def blockByte (B : List Byte) (j : Nat) : Byte := B.getD j 0x00#8

/-- `LE32(B, j)`: the little-endian 32-bit word `j` of a block (R100). -/
def le32 (B : List Byte) (j : Nat) : Word32 :=
  (blockByte B (4 * j)).setWidth 32
    ||| ((blockByte B (4 * j + 1)).setWidth 32 <<< 8)
    ||| ((blockByte B (4 * j + 2)).setWidth 32 <<< 16)
    ||| ((blockByte B (4 * j + 3)).setWidth 32 <<< 24)

/-- `BE32(B, j)`: the big-endian 32-bit word `j` of a block (R101). -/
def be32 (B : List Byte) (j : Nat) : Word32 :=
  ((blockByte B (4 * j)).setWidth 32 <<< 24)
    ||| ((blockByte B (4 * j + 1)).setWidth 32 <<< 16)
    ||| ((blockByte B (4 * j + 2)).setWidth 32 <<< 8)
    ||| (blockByte B (4 * j + 3)).setWidth 32

/-- `BE64(B, j)`: the big-endian 64-bit word `j` of a block, the OR over i of byte `8j + i` shifted left by
`56 - 8i` (R102). -/
def be64 (B : List Byte) (j : Nat) : Word64 :=
  (List.range 8).foldl
    (fun acc i => acc ||| ((blockByte B (8 * j + i)).setWidth 64 <<< (56 - 8 * i))) 0#64

/-- The bytes of a word, least significant first: byte `j` is `(x >> 8j) & 0xFF` (R103, MD5). -/
def wordBytesLe {w : Nat} (x : BitVec w) : List Byte :=
  (List.range (w / 8)).map fun j => (x >>> (8 * j)).setWidth 8

/-- The bytes of a word, most significant first: byte `j` is `(x >> (w - 8 - 8j)) & 0xFF` (R103, SHA family). -/
def wordBytesBe {w : Nat} (x : BitVec w) : List Byte :=
  (List.range (w / 8)).map fun j => (x >>> (w - 8 - 8 * j)).setWidth 8

/-- `_LO`: bits [31:0] of a 64-bit register (20_memory.md R56). -/
def loHalf (x : Word64) : Word32 := x.extractLsb' 0 32

/-- `_HI`: bits [63:32] of a 64-bit register (20_memory.md R56). -/
def hiHalf (x : Word64) : Word32 := x.extractLsb' 32 32

/-- A write of the `_LO` half. -/
def setLoHalf (x : Word64) (v : Word32) : Word64 := hiHalf x ++ v

/-- A write of the `_HI` half. -/
def setHiHalf (x : Word64) (v : Word32) : Word64 := v ++ loHalf x

/-- The operand `base`, a natural number (30_encoding.md R74, 40_pipeline.md R91). -/
def Engine.baseOperand (e : Engine) : Nat := e.msgBase.toNat

/-- The operand `L`, a natural number of bytes (30_encoding.md R74, 40_pipeline.md R91). -/
def Engine.lenOperand (e : Engine) : Nat := e.msgLen.toNat

end Sys2Proof.Machine
end

