-- ==== Sys2Proof/Machine/Params.lean ====
section
/-! DEFINITION. The fixed parameters of the six variants: the table of 00_scope.md R3, column by column. -/

namespace Sys2Proof.Machine

/-- The algorithm a command selects (30_encoding.md R71). -/
def algOf : Instr → Alg
  | .hashMd5 => .md5
  | .hashSha1 => .sha1
  | .hashSha224 => .sha224
  | .hashSha256 => .sha256
  | .hashSha384 => .sha384
  | .hashSha512 => .sha512

/-- BS(alg): block bytes. -/
def blockBytes : Alg → Nat
  | .md5 => 64
  | .sha1 => 64
  | .sha224 => 64
  | .sha256 => 64
  | .sha384 => 128
  | .sha512 => 128

/-- w(alg): the word width in bits. -/
def wordBits : Alg → Nat
  | .md5 => 32
  | .sha1 => 32
  | .sha224 => 32
  | .sha256 => 32
  | .sha384 => 64
  | .sha512 => 64

/-- NW(alg): state words. -/
def stateWords : Alg → Nat
  | .md5 => 4
  | .sha1 => 5
  | .sha224 => 8
  | .sha256 => 8
  | .sha384 => 8
  | .sha512 => 8

/-- NR(alg): steps per block. -/
def stepsPerBlock : Alg → Nat
  | .md5 => 64
  | .sha1 => 80
  | .sha224 => 64
  | .sha256 => 64
  | .sha384 => 80
  | .sha512 => 80

/-- LF(alg): length field bytes. -/
def lenBytes : Alg → Nat
  | .md5 => 8
  | .sha1 => 8
  | .sha224 => 8
  | .sha256 => 8
  | .sha384 => 16
  | .sha512 => 16

/-- DL(alg): digest bytes. -/
def digestBytes : Alg → Nat
  | .md5 => 16
  | .sha1 => 20
  | .sha224 => 28
  | .sha256 => 32
  | .sha384 => 48
  | .sha512 => 64

/-- Is the length field little-endian (MD5) or big-endian (the SHA family)? -/
def lenLittleEndian : Alg → Bool
  | .md5 => true
  | .sha1 => false
  | .sha224 => false
  | .sha256 => false
  | .sha384 => false
  | .sha512 => false

end Sys2Proof.Machine
end

