-- ==== Sys2Proof/Machine/Md5.lean ====
section
/-! DEFINITION. The MD5 compression engine MD5E (42_md5.md). -/

namespace Sys2Proof.Machine

/-- IV_MD5 (R142). -/
def ivMd5 : Words4 :=
  { a := 0x67452301#32, b := 0xefcdab89#32, c := 0x98badcfe#32, d := 0x10325476#32 }

/-- Entries 0 to 15 of the table of R143. -/
def md5KPart0 : List Word32 :=
  [0xd76aa478#32, 0xe8c7b756#32, 0x242070db#32, 0xc1bdceee#32,
   0xf57c0faf#32, 0x4787c62a#32, 0xa8304613#32, 0xfd469501#32,
   0x698098d8#32, 0x8b44f7af#32, 0xffff5bb1#32, 0x895cd7be#32,
   0x6b901122#32, 0xfd987193#32, 0xa679438e#32, 0x49b40821#32]

/-- Entries 16 to 31 of the table of R143. -/
def md5KPart1 : List Word32 :=
  [0xf61e2562#32, 0xc040b340#32, 0x265e5a51#32, 0xe9b6c7aa#32,
   0xd62f105d#32, 0x02441453#32, 0xd8a1e681#32, 0xe7d3fbc8#32,
   0x21e1cde6#32, 0xc33707d6#32, 0xf4d50d87#32, 0x455a14ed#32,
   0xa9e3e905#32, 0xfcefa3f8#32, 0x676f02d9#32, 0x8d2a4c8a#32]

/-- Entries 32 to 47 of the table of R143. -/
def md5KPart2 : List Word32 :=
  [0xfffa3942#32, 0x8771f681#32, 0x6d9d6122#32, 0xfde5380c#32,
   0xa4beea44#32, 0x4bdecfa9#32, 0xf6bb4b60#32, 0xbebfbc70#32,
   0x289b7ec6#32, 0xeaa127fa#32, 0xd4ef3085#32, 0x04881d05#32,
   0xd9d4d039#32, 0xe6db99e5#32, 0x1fa27cf8#32, 0xc4ac5665#32]

/-- Entries 48 to 63 of the table of R143. -/
def md5KPart3 : List Word32 :=
  [0xf4292244#32, 0x432aff97#32, 0xab9423a7#32, 0xfc93a039#32,
   0x655b59c3#32, 0x8f0ccc92#32, 0xffeff47d#32, 0x85845dd1#32,
   0x6fa87e4f#32, 0xfe2ce6e0#32, 0xa3014314#32, 0x4e0811a1#32,
   0xf7537e82#32, 0xbd3af235#32, 0x2ad7d2bb#32, 0xeb86d391#32]

/-- The step constants K[0..63] (R143). -/
def md5K : List Word32 := md5KPart0 ++ md5KPart1 ++ md5KPart2 ++ md5KPart3

/-- The four rows SQ of the rotation amounts (R144). -/
def md5Rot : List (List Nat) :=
  [[7, 12, 17, 22], [5, 9, 14, 20], [4, 11, 16, 23], [6, 10, 15, 21]]

/-- S[i] = SQ[i div 16][i mod 4] (R144). -/
def md5S (i : Nat) : Nat := (md5Rot.getD (i / 16) []).getD (i % 4) 0

/-- F, steps 0 to 15 (R145). -/
def md5F (b c d : Word32) : Word32 := (b &&& c) ||| (~~~b &&& d)

/-- G, steps 16 to 31 (R145). -/
def md5G (b c d : Word32) : Word32 := (d &&& b) ||| (~~~d &&& c)

/-- H, steps 32 to 47 (R145). -/
def md5H (b c d : Word32) : Word32 := b ^^^ c ^^^ d

/-- I, steps 48 to 63 (R145). -/
def md5I (b c d : Word32) : Word32 := c ^^^ (b ||| ~~~d)

/-- The quartile function of step `i` (R145). -/
def md5Fun (i : Nat) (b c d : Word32) : Word32 :=
  if i ≤ 15 then md5F b c d
  else if i ≤ 31 then md5G b c d
  else if i ≤ 47 then md5H b c d
  else md5I b c d

/-- The message-word index g of step `i` (R146). -/
def md5Index (i : Nat) : Nat :=
  if i ≤ 15 then i
  else if i ≤ 31 then (5 * i + 1) % 16
  else if i ≤ 47 then (3 * i + 5) % 16
  else (7 * i) % 16

/-- The message words X[0..15] (R148). -/
def md5Words (B : List Byte) : List Word32 := (List.range 16).map (le32 B)

/-- One MD5 step `i` on a, b, c, d and the message words (R147). -/
def md5Step (X : List Word32) (v : Words4) (i : Nat) : Words4 :=
  let f := md5Fun i v.b v.c v.d
  let sum := v.a + f + md5K.getD i 0#32 + X.getD (md5Index i) 0#32
  { a := v.d, b := v.b + rotl sum (md5S i), c := v.b, d := v.c }

/-- The working variables after the first `n` steps of a block. -/
def md5Steps (X : List Word32) (v : Words4) (n : Nat) : Words4 := (List.range n).foldl (md5Step X) v

/-- Feed-forward (R149). -/
def md5Add (h v : Words4) : Words4 :=
  { a := h.a + v.a, b := h.b + v.b, c := h.c + v.c, d := h.d + v.d }

/-- MD5Compress(H, B) (R150). -/
def md5Compress (h : Words4) (B : List Byte) : Words4 :=
  md5Add h (md5Steps (md5Words B) h (stepsPerBlock .md5))

/-- The four words serialized little-endian (R151, 40_pipeline.md R103). -/
def md5Serialize (h : Words4) : List Byte :=
  wordBytesLe h.a ++ wordBytesLe h.b ++ wordBytesLe h.c ++ wordBytesLe h.d

end Sys2Proof.Machine
end

