-- ==== Sys2Proof/Machine/Flags.lean ====
section
/-! DEFINITION. The only flags of the core (10_state.md R34): the fields of STATUS (R22) and the result codes (R24,
60_exceptions.md R245). -/

namespace Sys2Proof.Machine

/-- `code(E)`: the number of a result (R24, R245). -/
def Result.code : Result → BitVec 4
  | .ok => 0#4
  | .allocationFailure => 1#4
  | .unsupportedAlgorithm => 2#4
  | .accessFault => 3#4

/-- STATUS.BUSY: 1 if and only if the phase is BUSY (R22, R23). -/
def Engine.isBusy (e : Engine) : Bool :=
  match e.phase with
  | .idle => false
  | .busy _ => true
  | .done => false

/-- STATUS.DONE: 1 if and only if the phase is DONE (R22, R23). -/
def Engine.isDone (e : Engine) : Bool :=
  match e.phase with
  | .idle => false
  | .busy _ => false
  | .done => true

/-- `st.ctx`: present if and only if the phase is BUSY (R30, R36). -/
def Engine.ctx (e : Engine) : Option Ctx :=
  match e.phase with
  | .idle => none
  | .busy c => some c
  | .done => none

/-- STATUS (R22): bits [31:16] are 0, DLEN is [15:8], RESULT is [7:4], [3:2] are 0, DONE is [1], BUSY is [0]. -/
def Engine.status (e : Engine) : Word32 :=
  0#16 ++ e.dlen ++ e.result.code ++ 0#2 ++ BitVec.ofBool e.isDone ++ BitVec.ofBool e.isBusy

end Sys2Proof.Machine
end

