-- ==== Sys2Proof/Machine/Ops.lean ====
section
/-! DEFINITION. The named operations over memory and instances: reading and writing a byte (20_memory.md R50, R52),
looking up and replacing an instance, raising an error (60_exceptions.md R241), and the reset event
(70_reset_and_hazards.md R270). The core has no trap and no return from one (60_exceptions.md R253, R254): `raise` is its
whole exception mechanism. -/

namespace Sys2Proof

/-- Is address `a` in the region? -/
def Region.contains (r : Region) (a : Nat) : Bool :=
  decide (r.base ≤ a) && decide (a < r.base + r.size)

/-- Does the region share an address with `[lo, lo + len)`? An empty range shares none. -/
def Region.meets (r : Region) (lo len : Nat) : Bool :=
  decide (max r.base lo < min (r.base + r.size) (lo + len))

end Sys2Proof

namespace Sys2Proof.Machine

/-- The byte memory holds at an address (R50). -/
def Memory.read : Memory → Nat → Byte
  | [], _ => Config.unlistedByte
  | (k, b) :: rest, a =>
    if a < k then Config.unlistedByte else if a = k then b else Memory.read rest a

/-- Write one byte, keeping the canonical form: writing what an unlisted address reads as removes the entry. -/
def Memory.write : Memory → Nat → Byte → Memory
  | [], a, b => if b = Config.unlistedByte then [] else [(a, b)]
  | (k, c) :: rest, a, b =>
    if a < k then
      if b = Config.unlistedByte then (k, c) :: rest else (a, b) :: (k, c) :: rest
    else if a = k then
      if b = Config.unlistedByte then rest else (a, b) :: rest
    else (k, c) :: Memory.write rest a b

/-- The canonical form from address `lo` upward. -/
def Memory.wfFrom : Nat → Memory → Bool
  | _, [] => true
  | lo, (k, b) :: rest => decide (lo ≤ k) && b != Config.unlistedByte && Memory.wfFrom (k + 1) rest

/-- The canonical form: addresses strictly rising, no entry equal to what an unlisted address reads as. -/
def Memory.wf (m : Memory) : Bool := Memory.wfFrom 0 m

/-- The number of bytes of memory, 2^ADDR_W (R50). -/
def memBytes (p : Platform) : Nat := 2 ^ p.addrW

/-- The memory returns the byte at this address and does not refuse the read (R52). An address outside the memory is
not backed (DEDUCED, log 12). -/
def readable (p : Platform) (a : Nat) : Bool :=
  decide (a < memBytes p) && !(p.refused.any fun r => r.contains a)

/-- `MemRead(addr, 1)`: the byte, or none where the memory refuses the read (R52). -/
def memRead (p : Platform) (m : Memory) (a : Nat) : Option Byte :=
  if readable p a then some (Memory.read m a) else none

/-- Some address of `[lo, lo + len)` has a read side effect (R59). -/
def meetsSideEffect (p : Platform) (lo len : Nat) : Bool :=
  p.sideEffect.any fun r => r.meets lo len

/-- Instance `i`, if the platform has it (60_exceptions.md R260). -/
def State.engine? (s : State) (i : Nat) : Option Engine := s.engines[i]?

/-- The state with instance `i` replaced. -/
def State.setEngine (s : State) (i : Nat) (e : Engine) : State :=
  { s with engines := s.engines.set i e }

/-- The state with entries added to the model's log. -/
def State.log (s : State) (t : List TraceEntry) : State := { s with trace := s.trace ++ t }

/-- The instance after `raise E` (60_exceptions.md R241): RESULT is the code, DLEN and D are cleared, the context is gone
and the phase is DONE. CMD, MSG_BASE and MSG_LEN keep their values. -/
def Engine.raise (e : Engine) (r : Result) : Engine :=
  { e with phase := .done, result := r, dlen := 0x00#8, digest := zeroDigest }

/-- `raise E(info)` by instance `i` (60_exceptions.md R241): the one error operation of the machine. `info` goes to the
model's log and to no register. -/
def State.raise (s : State) (i : Nat) (e : Engine) (r : Result) (info : Info) : State :=
  (s.setEngine i (e.raise r)).log [.raised i r info]

/-- The reset event of one instance (70_reset_and_hazards.md R270): every field at its reset value, REG_BASE kept. -/
def Engine.resetEvent (e : Engine) : Engine := Engine.reset e.regBase

end Sys2Proof.Machine
end

