-- ==== Sys2Proof/Machine/Padding.lean ====
section
/-! DEFINITION. The padding and block-splitting controller (41_padding.md). -/

namespace Sys2Proof.Machine

/-- P(alg, L): the padded length (R121, second form). -/
def paddedLen (alg : Alg) (L : Nat) : Nat :=
  blockBytes alg * ((L + lenBytes alg) / blockBytes alg + 1)

/-- Z(alg, L): the number of zero bytes (R121). -/
def zeroCount (alg : Alg) (L : Nat) : Nat := paddedLen alg L - L - 1 - lenBytes alg

/-- nblk(alg, L) = P(alg, L) div BS(alg) (R122). -/
def blockCount (alg : Alg) (L : Nat) : Nat := paddedLen alg L / blockBytes alg

/-- The value of the length field: the bit length 8L modulo 2^(8 LF) (R123). -/
def lenFieldValue (alg : Alg) (L : Nat) : Nat := 8 * L % 2 ^ (8 * lenBytes alg)

/-- Byte `i` of the length field: little-endian for MD5, big-endian for the SHA family (R124). -/
def lenFieldByte (alg : Alg) (L i : Nat) : Byte :=
  let v := lenFieldValue alg L
  if lenLittleEndian alg then BitVec.ofNat 8 (v >>> (8 * i))
  else BitVec.ofNat 8 (v >>> (8 * (lenBytes alg - 1 - i)))

/-- LenField(alg, L), LF(alg) bytes (R124). -/
def lenField (alg : Alg) (L : Nat) : List Byte :=
  (List.range (lenBytes alg)).map (lenFieldByte alg L)

/-- PadByte(alg, L, k): byte `k` of the padded message, for `L ≤ k < P(alg, L)` (R125). -/
def padByte (alg : Alg) (L k : Nat) : Byte :=
  let p := paddedLen alg L
  let lf := lenBytes alg
  if k = L then 0x80#8
  else if k < p - lf then 0x00#8
  else lenFieldByte alg L (k - (p - lf))

/-- Pad(alg, M) = M, 0x80, zeros, LenField (R120). -/
def pad (alg : Alg) (M : List Byte) : List Byte :=
  M ++ [0x80#8] ++ List.replicate (zeroCount alg M.length) 0x00#8 ++ lenField alg M.length

/-- Block `n` of the padded message (R126). -/
def padBlock (alg : Alg) (M : List Byte) (n : Nat) : List Byte :=
  ((pad alg M).drop (n * blockBytes alg)).take (blockBytes alg)

end Sys2Proof.Machine
end

