-- ==== Sys2Proof/Machine/Sha1.lean ====
section
/-! DEFINITION. The SHA-1 compression engine SHA1E (43_sha1.md). -/

namespace Sys2Proof.Machine

/-- IV_SHA1 (R162). -/
def ivSha1 : Words5 :=
  { a := 0x67452301#32, b := 0xefcdab89#32, c := 0x98badcfe#32, d := 0x10325476#32, e := 0xc3d2e1f0#32 }

/-- Ch, steps 0 to 19 (R165). -/
def sha1Ch (b c d : Word32) : Word32 := (b &&& c) ||| (~~~b &&& d)

/-- Parity, steps 20 to 39 and 60 to 79 (R165, 90_conflicts.md C7). -/
def sha1Parity (b c d : Word32) : Word32 := b ^^^ c ^^^ d

/-- Maj, steps 40 to 59 (R165). -/
def sha1Maj (b c d : Word32) : Word32 := (b &&& c) ||| (b &&& d) ||| (c &&& d)

/-- The phase function of step `t` (R165). -/
def sha1Fun (t : Nat) (b c d : Word32) : Word32 :=
  if t ≤ 19 then sha1Ch b c d
  else if t ≤ 39 then sha1Parity b c d
  else if t ≤ 59 then sha1Maj b c d
  else sha1Parity b c d

/-- The phase constant Kt of step `t` (R163). -/
def sha1K (t : Nat) : Word32 :=
  if t ≤ 19 then 0x5a827999#32
  else if t ≤ 39 then 0x6ed9eba1#32
  else if t ≤ 59 then 0x8f1bbcdc#32
  else 0xca62c1d6#32

/-- Add the next words of the schedule (R164). The schedule `W` is held newest first, so that W[t-k] is entry `k - 1`. -/
def sha1Extend : Nat → List Word32 → List Word32
  | 0, W => W
  | n + 1, W =>
    sha1Extend n
      (rotl (W.getD 2 0#32 ^^^ W.getD 7 0#32 ^^^ W.getD 13 0#32 ^^^ W.getD 15 0#32) 1 :: W)

/-- The schedule W[0..79] of a block, in order (R164). -/
def sha1Schedule (B : List Byte) : List Word32 :=
  (sha1Extend 64 ((List.range 16).map (be32 B)).reverse).reverse

/-- One SHA-1 step `t` on a to e (R166). -/
def sha1Step (W : List Word32) (v : Words5) (t : Nat) : Words5 :=
  let f := sha1Fun t v.b v.c v.d
  let temp := rotl v.a 5 + f + v.e + sha1K t + W.getD t 0#32
  { a := temp, b := v.a, c := rotl v.b 30, d := v.c, e := v.d }

/-- The working variables after the first `n` steps of a block. -/
def sha1Steps (W : List Word32) (v : Words5) (n : Nat) : Words5 := (List.range n).foldl (sha1Step W) v

/-- Feed-forward (R170). -/
def sha1Add (h v : Words5) : Words5 :=
  { a := h.a + v.a, b := h.b + v.b, c := h.c + v.c, d := h.d + v.d, e := h.e + v.e }

/-- SHA1Compress(H, B) (R170). -/
def sha1Compress (h : Words5) (B : List Byte) : Words5 :=
  sha1Add h (sha1Steps (sha1Schedule B) h (stepsPerBlock .sha1))

/-- The five words serialized big-endian (R171, 40_pipeline.md R103). -/
def sha1Serialize (h : Words5) : List Byte :=
  wordBytesBe h.a ++ wordBytesBe h.b ++ wordBytesBe h.c ++ wordBytesBe h.d ++ wordBytesBe h.e

end Sys2Proof.Machine
end

