-- ==== Sys2Proof/Machine/Sha256.lean ====
section
/-! DEFINITION. The SHA-256 compression engine SHA256E, used by SHA-224 and SHA-256 (44_sha256.md), with CH and MAJ at any
width (R190, R191). -/

namespace Sys2Proof.Machine

/-- IV_SHA256 (R182). -/
def ivSha256 : Words8 32 :=
  { a := 0x6a09e667#32, b := 0xbb67ae85#32, c := 0x3c6ef372#32, d := 0xa54ff53a#32,
    e := 0x510e527f#32, f := 0x9b05688c#32, g := 0x1f83d9ab#32, h := 0x5be0cd19#32 }

/-- IV_SHA224 (R183). -/
def ivSha224 : Words8 32 :=
  { a := 0xc1059ed8#32, b := 0x367cd507#32, c := 0x3070dd17#32, d := 0xf70e5939#32,
    e := 0xffc00b31#32, f := 0x68581511#32, g := 0x64f98fa7#32, h := 0xbefa4fa4#32 }

/-- Entries 0 to 15 of the table of R185. -/
def k256Part0 : List Word32 :=
  [0x428a2f98#32, 0x71374491#32, 0xb5c0fbcf#32, 0xe9b5dba5#32,
   0x3956c25b#32, 0x59f111f1#32, 0x923f82a4#32, 0xab1c5ed5#32,
   0xd807aa98#32, 0x12835b01#32, 0x243185be#32, 0x550c7dc3#32,
   0x72be5d74#32, 0x80deb1fe#32, 0x9bdc06a7#32, 0xc19bf174#32]

/-- Entries 16 to 31 of the table of R185. -/
def k256Part1 : List Word32 :=
  [0xe49b69c1#32, 0xefbe4786#32, 0x0fc19dc6#32, 0x240ca1cc#32,
   0x2de92c6f#32, 0x4a7484aa#32, 0x5cb0a9dc#32, 0x76f988da#32,
   0x983e5152#32, 0xa831c66d#32, 0xb00327c8#32, 0xbf597fc7#32,
   0xc6e00bf3#32, 0xd5a79147#32, 0x06ca6351#32, 0x14292967#32]

/-- Entries 32 to 47 of the table of R185. -/
def k256Part2 : List Word32 :=
  [0x27b70a85#32, 0x2e1b2138#32, 0x4d2c6dfc#32, 0x53380d13#32,
   0x650a7354#32, 0x766a0abb#32, 0x81c2c92e#32, 0x92722c85#32,
   0xa2bfe8a1#32, 0xa81a664b#32, 0xc24b8b70#32, 0xc76c51a3#32,
   0xd192e819#32, 0xd6990624#32, 0xf40e3585#32, 0x106aa070#32]

/-- Entries 48 to 63 of the table of R185. -/
def k256Part3 : List Word32 :=
  [0x19a4c116#32, 0x1e376c08#32, 0x2748774c#32, 0x34b0bcb5#32,
   0x391c0cb3#32, 0x4ed8aa4a#32, 0x5b9cca4f#32, 0x682e6ff3#32,
   0x748f82ee#32, 0x78a5636f#32, 0x84c87814#32, 0x8cc70208#32,
   0x90befffa#32, 0xa4506ceb#32, 0xbef9a3f7#32, 0xc67178f2#32]

/-- The step constants K256[0..63] (R185). -/
def k256 : List Word32 := k256Part0 ++ k256Part1 ++ k256Part2 ++ k256Part3

/-- SIG0_32 (R186). -/
def sig0W32 (x : Word32) : Word32 := rotr x 7 ^^^ rotr x 18 ^^^ (x >>> 3)

/-- SIG1_32 (R187). -/
def sig1W32 (x : Word32) : Word32 := rotr x 17 ^^^ rotr x 19 ^^^ (x >>> 10)

/-- EP0_32 (R188). -/
def ep0W32 (x : Word32) : Word32 := rotr x 2 ^^^ rotr x 13 ^^^ rotr x 22

/-- EP1_32 (R189). -/
def ep1W32 (x : Word32) : Word32 := rotr x 6 ^^^ rotr x 11 ^^^ rotr x 25

/-- CH on words of the engine's width (R190, 45_sha512.md R220). -/
def ch {w : Nat} (x y z : BitVec w) : BitVec w := (x &&& y) ^^^ (~~~x &&& z)

/-- MAJ on words of the engine's width (R191, 45_sha512.md R220). -/
def maj {w : Nat} (x y z : BitVec w) : BitVec w := (x &&& y) ^^^ (x &&& z) ^^^ (y &&& z)

/-- Add the next words of the schedule (R192). The schedule `W` is held newest first, so that W[t-k] is entry `k - 1`. -/
def sha256Extend : Nat → List Word32 → List Word32
  | 0, W => W
  | n + 1, W =>
    sha256Extend n
      ((sig1W32 (W.getD 1 0#32) + W.getD 6 0#32 + sig0W32 (W.getD 14 0#32) + W.getD 15 0#32) :: W)

/-- The schedule W[0..63] of a block, in order (R192). -/
def sha256Schedule (B : List Byte) : List Word32 :=
  (sha256Extend 48 ((List.range 16).map (be32 B)).reverse).reverse

/-- One SHA-256 step `t` on a to h (R193). -/
def sha256Step (W : List Word32) (v : Words8 32) (t : Nat) : Words8 32 :=
  let t1 := v.h + ep1W32 v.e + ch v.e v.f v.g + k256.getD t 0#32 + W.getD t 0#32
  let t2 := ep0W32 v.a + maj v.a v.b v.c
  { a := t1 + t2, b := v.a, c := v.b, d := v.c, e := v.d + t1, f := v.e, g := v.f, h := v.g }

/-- The working variables after the first `n` steps of a block. -/
def sha256Steps (W : List Word32) (v : Words8 32) (n : Nat) : Words8 32 :=
  (List.range n).foldl (sha256Step W) v

/-- Feed-forward (R195). -/
def sha256Add (h v : Words8 32) : Words8 32 :=
  { a := h.a + v.a, b := h.b + v.b, c := h.c + v.c, d := h.d + v.d,
    e := h.e + v.e, f := h.f + v.f, g := h.g + v.g, h := h.h + v.h }

/-- SHA256Compress(H, B) (R195). -/
def sha256Compress (h : Words8 32) (B : List Byte) : Words8 32 :=
  sha256Add h (sha256Steps (sha256Schedule B) h (stepsPerBlock .sha256))

/-- The eight words serialized big-endian (R196, 40_pipeline.md R103). -/
def sha256Serialize (h : Words8 32) : List Byte :=
  wordBytesBe h.a ++ wordBytesBe h.b ++ wordBytesBe h.c ++ wordBytesBe h.d ++
    wordBytesBe h.e ++ wordBytesBe h.f ++ wordBytesBe h.g ++ wordBytesBe h.h

end Sys2Proof.Machine
end

