-- ==== Sys2Proof/Machine/Sha512.lean ====
section
/-! DEFINITION. The SHA-512 compression engine SHA512E, used by SHA-384 and SHA-512 (45_sha512.md). CH and MAJ are those of
Machine/Sha256.lean at width 64 (R220). -/

namespace Sys2Proof.Machine

/-- IV_SHA512 (R212). -/
def ivSha512 : Words8 64 :=
  { a := 0x6a09e667f3bcc908#64, b := 0xbb67ae8584caa73b#64, c := 0x3c6ef372fe94f82b#64, d := 0xa54ff53a5f1d36f1#64,
    e := 0x510e527fade682d1#64, f := 0x9b05688c2b3e6c1f#64, g := 0x1f83d9abfb41bd6b#64, h := 0x5be0cd19137e2179#64 }

/-- IV_SHA384 (R213). -/
def ivSha384 : Words8 64 :=
  { a := 0xcbbb9d5dc1059ed8#64, b := 0x629a292a367cd507#64, c := 0x9159015a3070dd17#64, d := 0x152fecd8f70e5939#64,
    e := 0x67332667ffc00b31#64, f := 0x8eb44a8768581511#64, g := 0xdb0c2e0d64f98fa7#64, h := 0x47b5481dbefa4fa4#64 }

/-- Entries 0 to 15 of the table of R215. -/
def k512Part0 : List Word64 :=
  [0x428a2f98d728ae22#64, 0x7137449123ef65cd#64, 0xb5c0fbcfec4d3b2f#64, 0xe9b5dba58189dbbc#64,
   0x3956c25bf348b538#64, 0x59f111f1b605d019#64, 0x923f82a4af194f9b#64, 0xab1c5ed5da6d8118#64,
   0xd807aa98a3030242#64, 0x12835b0145706fbe#64, 0x243185be4ee4b28c#64, 0x550c7dc3d5ffb4e2#64,
   0x72be5d74f27b896f#64, 0x80deb1fe3b1696b1#64, 0x9bdc06a725c71235#64, 0xc19bf174cf692694#64]

/-- Entries 16 to 31 of the table of R215. -/
def k512Part1 : List Word64 :=
  [0xe49b69c19ef14ad2#64, 0xefbe4786384f25e3#64, 0x0fc19dc68b8cd5b5#64, 0x240ca1cc77ac9c65#64,
   0x2de92c6f592b0275#64, 0x4a7484aa6ea6e483#64, 0x5cb0a9dcbd41fbd4#64, 0x76f988da831153b5#64,
   0x983e5152ee66dfab#64, 0xa831c66d2db43210#64, 0xb00327c898fb213f#64, 0xbf597fc7beef0ee4#64,
   0xc6e00bf33da88fc2#64, 0xd5a79147930aa725#64, 0x06ca6351e003826f#64, 0x142929670a0e6e70#64]

/-- Entries 32 to 47 of the table of R215. -/
def k512Part2 : List Word64 :=
  [0x27b70a8546d22ffc#64, 0x2e1b21385c26c926#64, 0x4d2c6dfc5ac42aed#64, 0x53380d139d95b3df#64,
   0x650a73548baf63de#64, 0x766a0abb3c77b2a8#64, 0x81c2c92e47edaee6#64, 0x92722c851482353b#64,
   0xa2bfe8a14cf10364#64, 0xa81a664bbc423001#64, 0xc24b8b70d0f89791#64, 0xc76c51a30654be30#64,
   0xd192e819d6ef5218#64, 0xd69906245565a910#64, 0xf40e35855771202a#64, 0x106aa07032bbd1b8#64]

/-- Entries 48 to 63 of the table of R215. -/
def k512Part3 : List Word64 :=
  [0x19a4c116b8d2d0c8#64, 0x1e376c085141ab53#64, 0x2748774cdf8eeb99#64, 0x34b0bcb5e19b48a8#64,
   0x391c0cb3c5c95a63#64, 0x4ed8aa4ae3418acb#64, 0x5b9cca4f7763e373#64, 0x682e6ff3d6b2b8a3#64,
   0x748f82ee5defb2fc#64, 0x78a5636f43172f60#64, 0x84c87814a1f0ab72#64, 0x8cc702081a6439ec#64,
   0x90befffa23631e28#64, 0xa4506cebde82bde9#64, 0xbef9a3f7b2c67915#64, 0xc67178f2e372532b#64]

/-- Entries 64 to 79 of the table of R215. -/
def k512Part4 : List Word64 :=
  [0xca273eceea26619c#64, 0xd186b8c721c0c207#64, 0xeada7dd6cde0eb1e#64, 0xf57d4f7fee6ed178#64,
   0x06f067aa72176fba#64, 0x0a637dc5a2c898a6#64, 0x113f9804bef90dae#64, 0x1b710b35131c471b#64,
   0x28db77f523047d84#64, 0x32caab7b40c72493#64, 0x3c9ebe0a15c9bebc#64, 0x431d67c49c100d4c#64,
   0x4cc5d4becb3e42b6#64, 0x597f299cfc657e2a#64, 0x5fcb6fab3ad6faec#64, 0x6c44198c4a475817#64]

/-- The step constants K512[0..79] (R215). -/
def k512 : List Word64 := k512Part0 ++ k512Part1 ++ k512Part2 ++ k512Part3 ++ k512Part4

/-- SIG0_64 (R216). -/
def sig0W64 (x : Word64) : Word64 := rotr x 1 ^^^ rotr x 8 ^^^ (x >>> 7)

/-- SIG1_64 (R217). -/
def sig1W64 (x : Word64) : Word64 := rotr x 19 ^^^ rotr x 61 ^^^ (x >>> 6)

/-- EP0_64 (R218). -/
def ep0W64 (x : Word64) : Word64 := rotr x 28 ^^^ rotr x 34 ^^^ rotr x 39

/-- EP1_64 (R219). -/
def ep1W64 (x : Word64) : Word64 := rotr x 14 ^^^ rotr x 18 ^^^ rotr x 41

/-- Add the next words of the schedule (R221). The schedule `W` is held newest first, so that W[t-k] is entry `k - 1`. -/
def sha512Extend : Nat → List Word64 → List Word64
  | 0, W => W
  | n + 1, W =>
    sha512Extend n
      ((sig1W64 (W.getD 1 0#64) + W.getD 6 0#64 + sig0W64 (W.getD 14 0#64) + W.getD 15 0#64) :: W)

/-- The schedule W[0..79] of a block, in order (R221). -/
def sha512Schedule (B : List Byte) : List Word64 :=
  (sha512Extend 64 ((List.range 16).map (be64 B)).reverse).reverse

/-- One SHA-512 step `t` on a to h (R222). -/
def sha512Step (W : List Word64) (v : Words8 64) (t : Nat) : Words8 64 :=
  let t1 := v.h + ep1W64 v.e + ch v.e v.f v.g + k512.getD t 0#64 + W.getD t 0#64
  let t2 := ep0W64 v.a + maj v.a v.b v.c
  { a := t1 + t2, b := v.a, c := v.b, d := v.c, e := v.d + t1, f := v.e, g := v.f, h := v.g }

/-- The working variables after the first `n` steps of a block. -/
def sha512Steps (W : List Word64) (v : Words8 64) (n : Nat) : Words8 64 :=
  (List.range n).foldl (sha512Step W) v

/-- Feed-forward (R225). -/
def sha512Add (h v : Words8 64) : Words8 64 :=
  { a := h.a + v.a, b := h.b + v.b, c := h.c + v.c, d := h.d + v.d,
    e := h.e + v.e, f := h.f + v.f, g := h.g + v.g, h := h.h + v.h }

/-- SHA512Compress(H, B) (R225). -/
def sha512Compress (h : Words8 64) (B : List Byte) : Words8 64 :=
  sha512Add h (sha512Steps (sha512Schedule B) h (stepsPerBlock .sha512))

/-- The eight words serialized big-endian (R226, 40_pipeline.md R103). -/
def sha512Serialize (h : Words8 64) : List Byte :=
  wordBytesBe h.a ++ wordBytesBe h.b ++ wordBytesBe h.c ++ wordBytesBe h.d ++
    wordBytesBe h.e ++ wordBytesBe h.f ++ wordBytesBe h.g ++ wordBytesBe h.h

end Sys2Proof.Machine
end

