-- ==== Sys2Proof/Machine/Sequencer.lean ====
section
/-! DEFINITION. The command sequencer (40_pipeline.md): the dispatch over the six algorithms (R93, R103, R107), command
acceptance (R90), the block step (R95), the finish step (R97), and the digest function (R98). -/

namespace Sys2Proof.Machine

/-- IV(alg) (R93). -/
def iv : Alg → HState
  | .md5 => .md5 ivMd5
  | .sha1 => .sha1 ivSha1
  | .sha224 => .sha224 ivSha224
  | .sha256 => .sha256 ivSha256
  | .sha384 => .sha384 ivSha384
  | .sha512 => .sha512 ivSha512

/-- Compress(alg, H, B) (R107). -/
def compress (h : HState) (B : List Byte) : HState :=
  match h with
  | .md5 h => .md5 (md5Compress h B)
  | .sha1 h => .sha1 (sha1Compress h B)
  | .sha224 h => .sha224 (sha256Compress h B)
  | .sha256 h => .sha256 (sha256Compress h B)
  | .sha384 h => .sha384 (sha512Compress h B)
  | .sha512 h => .sha512 (sha512Compress h B)

/-- Serialize(alg, H), NW(alg) w(alg) / 8 bytes (R103). -/
def serialize : HState → List Byte
  | .md5 h => md5Serialize h
  | .sha1 h => sha1Serialize h
  | .sha224 h => sha256Serialize h
  | .sha256 h => sha256Serialize h
  | .sha384 h => sha512Serialize h
  | .sha512 h => sha512Serialize h

/-- The first DL(alg) bytes of Serialize(alg, H) (R104). -/
def digestOf (h : HState) : List Byte := (serialize h).take (digestBytes h.alg)

/-- `ctx.H` after the first `n` blocks of the padded message (the loop of R98). -/
def hashBlocks (alg : Alg) (M : List Byte) : Nat → HState
  | 0 => iv alg
  | n + 1 => compress (hashBlocks alg M n) (padBlock alg M n)

/-- Digest(alg, M) (R98). -/
def digestFn (alg : Alg) (M : List Byte) : List Byte :=
  ((serialize (hashBlocks alg M ((pad alg M).length / blockBytes alg))).take (digestBytes alg))

/-! ## Acceptance -/

/-- The context of R90 for an accepted command: operands latched (R91), block count (41_padding.md R122), no block
done, H = IV (R93). -/
def freshCtx (alg : Alg) (base len : Nat) : Ctx :=
  { base := base, len := len, nblk := blockCount alg len, blk := 0, h := iv alg }

/-- The first lines of `accept(v)`: CMD stored, D and DLEN cleared (R90); `race` cleared (60_exceptions.md R250,
DEDUCED, log 18). -/
def Engine.beginCommand (e : Engine) (v : Word32) : Engine :=
  { e with cmd := v, digest := zeroDigest, dlen := 0x00#8, race := false }

/-- The last lines of `accept(v)`: the context, RESULT = OK, phase BUSY (R90). -/
def Engine.enterBusy (e : Engine) (alg : Alg) : Engine :=
  { e with result := .ok, phase := .busy (freshCtx alg e.baseOperand e.lenOperand) }

/-- The allocation draw of R94: taken only where `alloc_may_fail` is true. -/
def drawAllocFail (s : State) : Bool := s.plat.allocMayFail && Config.allocDraw s.draws

/-- The state after the draw: where `alloc_may_fail` is true, one more free value has been taken (DESIGN CHOICE, log 7). -/
def State.afterDraw (s : State) : State :=
  if s.plat.allocMayFail then { s with draws := s.draws + 1 } else s

/-- `accept(v)` with `v` decoded to `alg`, or to UNDEFINED (none), on instance `i` outside BUSY (R90). The checks run in
the order of 60_exceptions.md R246; the refusal of a message over side-effect memory (20_memory.md R59) comes last
(DESIGN CHOICE, log 9) The empty message at base = 2^ADDR_W passes the range check of R92, and its base is latched, although
10_state.md R30 types ctx.base as below 2^ADDR_W (DESIGN CHOICE, log 23). -/
def accept (s : State) (i : Nat) (e : Engine) (v : Word32) (alg : Option Alg) :
    Host.Outcome State Fault Refusal :=
  let e1 := e.beginCommand v
  match alg with
  | none => .next (s.raise i e1 .unsupportedAlgorithm .nothing)
  | some a =>
    let s1 := s.afterDraw
    let base := e1.baseOperand
    let len := e1.lenOperand
    if drawAllocFail s then .next (s1.raise i e1 .allocationFailure .nothing)
    else if memBytes s.plat < base + len then .next (s1.raise i e1 .accessFault .range)
    else if meetsSideEffect s.plat base len then .refused (.sideEffectMemory base len)
    else .next (s1.setEngine i (e1.enterBusy a))

/-- A host write of `v` to CMD of the selected instance, `v` decoded to `alg` or to UNDEFINED: ignored in BUSY
(10_state.md R21, 70_reset_and_hazards.md R281), else command acceptance (R90). -/
def writeCmd (v : Word32) (alg : Option Alg) (s : State) : Host.Outcome State Fault Refusal :=
  match s.engine? s.sel with
  | none => .refused (.noSuchInstance s.sel)
  | some e => if e.isBusy then .next s else accept s s.sel e v alg

/-! ## The block loop -/

/-- What a block step has got from the padding controller and the memory: the bytes of B, the addresses read, in order,
and the address of the refused read that ended it, if any. -/
structure Gathered where
  bytes : List Byte
  reads : List Nat
  refusedAt : Option Nat
  deriving DecidableEq, Repr

/-- The loop of R95 over `n` bytes from byte `k` of the padded message: a message byte is read, a padding byte is
generated, and a refused read ends the loop (R96). -/
def gather (p : Platform) (m : Memory) (alg : Alg) (base len : Nat) : Nat → Nat → Gathered
  | _, 0 => { bytes := [], reads := [], refusedAt := none }
  | k, n + 1 =>
    if k < len then
      match memRead p m (base + k) with
      | none => { bytes := [], reads := [], refusedAt := some (base + k) }
      | some b =>
        let r := gather p m alg base len (k + 1) n
        { bytes := b :: r.bytes, reads := (base + k) :: r.reads, refusedAt := r.refusedAt }
    else
      let r := gather p m alg base len (k + 1) n
      { bytes := padByte alg len k :: r.bytes, reads := r.reads, refusedAt := r.refusedAt }

/-- The bytes of block `ctx.blk` (R95). -/
def gatherBlock (p : Platform) (m : Memory) (c : Ctx) : Gathered :=
  gather p m c.alg c.base c.len (c.blk * blockBytes c.alg) (blockBytes c.alg)

/-- The context after one more block (R95). -/
def Ctx.advance (c : Ctx) (B : List Byte) : Ctx := { c with h := compress c.h B, blk := c.blk + 1 }

/-- The block step of instance `i` (R95), or the refused read that ends its command (R96). -/
def blockStep (s : State) (i : Nat) (e : Engine) (c : Ctx) : State :=
  let g := gatherBlock s.plat s.mem c
  let s1 := s.log (g.reads.map (TraceEntry.read i))
  match g.refusedAt with
  | some a => s1.raise i e .accessFault (.addr a)
  | none => s1.setEngine i { e with phase := .busy (c.advance g.bytes) }

/-! ## Finish -/

/-- D with its first bytes written: `D[i] <- S[i]` for each byte of S, the others kept (R97). -/
def writeDigest (D : Vector Byte 64) (S : List Byte) : Vector Byte 64 :=
  Vector.ofFn fun i => if i.val < S.length then S.getD i.val 0x00#8 else D[i]

/-- DL(alg) free bytes, the digest of a command that finishes with `race` set (60_exceptions.md R250, 93 U9; DEDUCED, log 8). -/
def racedDigest (draws : Nat) (alg : Alg) : List Byte :=
  (List.range (digestBytes alg)).map (Config.raceDigest draws)

/-- The bytes the finish step of a command writes (R97), free where the command was raced (DEDUCED, log 8). -/
def finishBytes (s : State) (e : Engine) (c : Ctx) : List Byte :=
  if e.race then racedDigest s.draws c.alg else digestOf c.h

/-- The finish step of instance `i` (R97). -/
def finishStep (s : State) (i : Nat) (e : Engine) (c : Ctx) : State :=
  let s1 := if e.race then { s with draws := s.draws + 1 } else s
  s1.setEngine i
    { e with
      digest := writeDigest e.digest (finishBytes s e c)
      dlen := BitVec.ofNat 8 (digestBytes c.alg)
      result := .ok
      phase := .done }

/-- The step of engine `i` (R110): none in IDLE and DONE; in BUSY the block step if a block is left, otherwise the
finish step, also in the unreachable states where more blocks are done than there are (DEDUCED, log 20). -/
def engineStep (s : State) (i : Nat) : State :=
  match s.engine? i with
  | none => s
  | some e =>
    match e.ctx with
    | none => s
    | some c => if c.blk < c.nblk then blockStep s i e c else finishStep s i e c

end Sys2Proof.Machine
end

