-- ==== Sys2Proof/Machine/Hash.lean ====
section
/-! DEFINITION. The six commands. `HASH.<ALG>` is the host write of its word to CMD (30_encoding.md R76), one step of the
machine (00_scope.md R9): command acceptance with its algorithm (40_pipeline.md R90), after which the engine's block steps
(R95) and its finish step (R97) follow as steps of their own, with the algorithm's compression function and serializer
(DEDUCED, log 5). -/

namespace Sys2Proof.Machine

/-- HASH.MD5 (42_md5.md R140). -/
def execHashMd5 (s : State) : Host.Outcome State Fault Refusal :=
  writeCmd (encode .hashMd5) (some .md5) s

/-- HASH.SHA1 (43_sha1.md R160). -/
def execHashSha1 (s : State) : Host.Outcome State Fault Refusal :=
  writeCmd (encode .hashSha1) (some .sha1) s

/-- HASH.SHA224 (44_sha256.md R180). -/
def execHashSha224 (s : State) : Host.Outcome State Fault Refusal :=
  writeCmd (encode .hashSha224) (some .sha224) s

/-- HASH.SHA256 (44_sha256.md R181). -/
def execHashSha256 (s : State) : Host.Outcome State Fault Refusal :=
  writeCmd (encode .hashSha256) (some .sha256) s

/-- HASH.SHA384 (45_sha512.md R210). -/
def execHashSha384 (s : State) : Host.Outcome State Fault Refusal :=
  writeCmd (encode .hashSha384) (some .sha384) s

/-- HASH.SHA512 (45_sha512.md R211). -/
def execHashSha512 (s : State) : Host.Outcome State Fault Refusal :=
  writeCmd (encode .hashSha512) (some .sha512) s

end Sys2Proof.Machine
end

