-- ==== Sys2Proof/Machine/HostPort.lean ====
section
/-! DEFINITION. The host interface HIF (10_state.md R20 to R29, R41) and the steps of the hosts and the platform: register
and memory accesses, POLL, the reset event (00_scope.md R9, 30_encoding.md R76, 70_reset_and_hazards.md R270, R281), the
fetch of a command from a CMD write, and whose turn it is (20_memory.md R63). -/

namespace Sys2Proof.Machine

/-! ## Registers -/

/-- The register at an aligned offset below 0x80 (R20). -/
def Reg.ofOffset (off : Nat) : Reg :=
  if off = 0x00 then .cmd
  else if off = 0x04 then .status
  else if off = 0x08 then .msgBaseLo
  else if off = 0x0C then .msgBaseHi
  else if off = 0x10 then .msgLenLo
  else if off = 0x14 then .msgLenHi
  else if off < 0x40 then .reserved
  else .digest (Fin.ofNat 16 ((off - 0x40) / 4))

/-- DIGESTk: digest bytes 4k to 4k+3, byte 4k in bits [7:0] (R28). -/
def Engine.digestReg (e : Engine) (k : Fin 16) : Word32 :=
  (e.digest[4 * k.val]).setWidth 32
    ||| ((e.digest[4 * k.val + 1]).setWidth 32 <<< 8)
    ||| ((e.digest[4 * k.val + 2]).setWidth 32 <<< 16)
    ||| ((e.digest[4 * k.val + 3]).setWidth 32 <<< 24)

/-- What a host read of a register returns, in every phase (R21, R22, R26 to R29, R281). -/
def Engine.readReg (e : Engine) (r : Reg) : Word32 :=
  match r with
  | .cmd => e.cmd
  | .status => e.status
  | .msgBaseLo => loHalf e.msgBase
  | .msgBaseHi => hiHalf e.msgBase
  | .msgLenLo => loHalf e.msgLen
  | .msgLenHi => hiHalf e.msgLen
  | .reserved => 0x00000000#32
  | .digest k => e.digestReg k

/-- A host write of a register other than CMD: ignored in BUSY, and in every phase where the register is read-only or
reserved (R22, R26 to R29, R281). CMD is written by command acceptance, and is left alone here. -/
def Engine.writeReg (e : Engine) (r : Reg) (v : Word32) : Engine :=
  if e.isBusy then e
  else
    match r with
    | .cmd => e
    | .status => e
    | .msgBaseLo => { e with msgBase := setLoHalf e.msgBase v }
    | .msgBaseHi => { e with msgBase := setHiHalf e.msgBase v }
    | .msgLenLo => { e with msgLen := setLoHalf e.msgLen v }
    | .msgLenHi => { e with msgLen := setHiHalf e.msgLen v }
    | .reserved => e
    | .digest _ => e

/-- The instance, counted from `i`, whose register block holds the address, and the offset in the block (R20). Where
blocks overlap, the first instance answers (DESIGN CHOICE, log 16). -/
def locateFrom : Nat → List Engine → Nat → Option (Nat × Nat)
  | _, [], _ => none
  | i, e :: rest, addr =>
    if e.regBase ≤ addr ∧ addr < e.regBase + regBlockBytes then some (i, addr - e.regBase)
    else locateFrom (i + 1) rest addr

/-- The instance and register an access names; none where R41 refuses the access. -/
def State.target (s : State) (addr width : Nat) : Option (Nat × Reg) :=
  match locateFrom 0 s.engines addr with
  | none => none
  | some (i, off) => if regAccessOk off width then some (i, Reg.ofOffset off) else none

/-! ## The steps of the hosts and the platform -/

/-- A host write of `v` to CMD: the word is decoded (30_encoding.md R77) and the command it names is executed; an undefined
word is accepted and ends in UnsupportedAlgorithm (R73). -/
def runCommand (v : Word32) (s : State) : Host.Outcome State Fault Refusal :=
  match decode v with
  | .ok i => exec i s
  | .error _ => writeCmd v none s

/-- Does an engine's running command read the address? -/
def Engine.messageHolds (e : Engine) (a : Nat) : Bool :=
  match e.ctx with
  | none => false
  | some c => decide (c.base ≤ a) && decide (a < c.base + c.len)

/-- MessageRace: the flag is set where the address is in the message of a BUSY instance (20_memory.md R69,
60_exceptions.md R250). -/
def Engine.noteWrite (e : Engine) (a : Nat) : Engine :=
  if e.messageHolds a then { e with race := true } else e

/-- A host write of one byte of memory; the races it makes are recorded, and the write is performed (R69). -/
def State.hostWrite (s : State) (a : Nat) (b : Byte) : State :=
  { s with mem := Memory.write s.mem a b, engines := s.engines.map fun e => e.noteWrite a }

/-- The value a host step read is recorded (30_encoding.md R76, DESIGN CHOICE, log 14). -/
def State.record (s : State) (v : Word32) : State := { s with recorded := s.recorded ++ [v] }

/-- WR: a write of CMD runs a command (R21); a write of another register is `Engine.writeReg`; an access that is not
an aligned 32-bit access inside a block is refused (R41). -/
def performRegWrite (addr width : Nat) (v : Word32) (s : State) : Host.Outcome State Fault Refusal :=
  match s.target addr width with
  | none => .refused (.registerAccess addr width)
  | some (i, r) =>
    if r = .cmd then runCommand v { s with sel := i }
    else
      match s.engine? i with
      | none => .refused (.noSuchInstance i)
      | some e => .next (s.setEngine i (e.writeReg r v))

/-- RD: the register's value is recorded; an access that is not an aligned 32-bit access inside a block is refused
(R41). -/
def performRegRead (addr width : Nat) (s : State) : Host.Outcome State Fault Refusal :=
  match s.target addr width with
  | none => .refused (.registerAccess addr width)
  | some (i, r) =>
    match s.engine? i with
    | none => .refused (.noSuchInstance i)
    | some e => .next (s.record (e.readReg r))

/-- What host `h` is still to do. -/
def State.program (s : State) (h : Nat) : List Event := s.hosts.getD h []

/-- POLL by host `h`: RD STATUS, repeated until BUSY = 0 (30_encoding.md R76; DESIGN CHOICE, log 14). It is one read a step,
and holds up no other host, no engine and no reset between its reads (70_reset_and_hazards.md R287). -/
def performPoll (h i : Nat) (s : State) : Host.Outcome State Fault Refusal :=
  match s.engine? i with
  | none => .refused (.noSuchInstance i)
  | some e =>
    if e.isBusy then .next { s.record e.status with hosts := s.hosts.set h (.poll i :: s.program h) }
    else .next (s.record e.status)

/-- A host write of a byte of memory (20_memory.md R50, R69), whether or not the memory refuses reads there (DEDUCED,
log 19); an address outside the memory is refused (60_exceptions.md R251; DEDUCED, log 11). -/
def performMemWrite (a : Nat) (b : Byte) (s : State) : Host.Outcome State Fault Refusal :=
  if a < memBytes s.plat then .next (s.hostWrite a b) else .refused (.outsideMemory a)

/-- A host read of a byte of memory, any byte at any time (20_memory.md R50; DEDUCED, log 19); an address outside the
memory is refused (60_exceptions.md R251; DEDUCED, log 11). -/
def performMemRead (a : Nat) (s : State) : Host.Outcome State Fault Refusal :=
  if a < memBytes s.plat then .next (s.record ((Memory.read s.mem a).setWidth 32)) else .refused (.outsideMemory a)

/-- The reset event of an instance (70_reset_and_hazards.md R270). -/
def performReset (i : Nat) (s : State) : Host.Outcome State Fault Refusal :=
  match s.engine? i with
  | none => .refused (.noSuchInstance i)
  | some e => .next (s.setEngine i e.resetEvent)

/-- One step of host `h`, taken off its list. -/
def perform (h : Nat) (ev : Event) (s : State) : Host.Outcome State Fault Refusal :=
  match ev with
  | .regWrite addr width v => performRegWrite addr width v s
  | .regRead addr width => performRegRead addr width s
  | .poll i => performPoll h i s
  | .memWrite a b => performMemWrite a b s
  | .memRead a => performMemRead a s

/-! ## Whose turn it is -/

/-- The lowest-numbered BUSY instance, counted from `i`. -/
def firstBusyFrom : Nat → List Engine → Option Nat
  | _, [] => none
  | i, e :: rest => if e.isBusy then some i else firstBusyFrom (i + 1) rest

/-- The lowest-numbered host with something to do, counted from `h`. -/
def firstHostFrom : Nat → List (List Event) → Option Nat
  | _, [] => none
  | h, [] :: rest => firstHostFrom (h + 1) rest
  | h, (_ :: _) :: _ => some h

/-- The default order once `sched` is used up: a BUSY engine first, then a host, then the platform (DESIGN CHOICE, log 4;
DEDUCED, log 17). -/
def defaultTurn (s : State) : Turn :=
  match firstBusyFrom 0 s.engines with
  | some i => .engine i
  | none =>
    match firstHostFrom 0 s.hosts with
    | some h => .host h
    | none => .platform

/-- Whose turn it is: the agent `sched` names next, or the one the default order names. -/
def State.nextTurn (s : State) : Turn :=
  match s.sched with
  | [] => defaultTurn s
  | t :: _ => t

/-- What host step comes next, if the turn is a host's and it has one. -/
def State.nextEvent (s : State) : Option Event :=
  match s.nextTurn with
  | .host h => (s.program h).head?
  | .platform => none
  | .engine _ => none

/-- What instance is reset next, if the turn is the platform's and it has a reset event. -/
def State.nextReset (s : State) : Option Nat :=
  match s.nextTurn with
  | .host _ => none
  | .platform => s.resets.head?
  | .engine _ => none

/-- The state with the turn taken off `sched`, and what its agent is about to do off that agent's list. -/
def State.taken (s : State) : State :=
  match s.nextTurn with
  | .host h => { s with sched := s.sched.tail, hosts := s.hosts.set h (s.program h).tail }
  | .platform => { s with sched := s.sched.tail, resets := s.resets.tail }
  | .engine _ => { s with sched := s.sched.tail }

/-- One step of the machine: one atomic step of the agent whose turn it is (20_memory.md R63). A host or a platform with
nothing left to do changes nothing (DESIGN CHOICE, log 4). -/
def machineStep (s : State) : Host.Outcome State Fault Refusal :=
  match s.nextTurn with
  | .host h =>
    match (s.program h).head? with
    | none => .next s.taken
    | some ev => perform h ev s.taken
  | .platform =>
    match s.resets.head? with
    | none => .next s.taken
    | some i => performReset i s.taken
  | .engine i => .next (engineStep s.taken i)

/-- The register-space address of CMD of instance 0 (10_state.md R20). -/
def State.cmdAddr (s : State) : Nat :=
  match s.engines with
  | [] => 0
  | e :: _ => e.regBase

/-- The hosts' lists with one more event at the head of host 0's. -/
def hostsWith (ev : Event) : List (List Event) → List (List Event)
  | [] => [[ev]]
  | l :: rest => (ev :: l) :: rest

/-- The state in which the next step is host 0's write of a word to CMD of instance 0 (DESIGN CHOICE, log 6). -/
def State.placeCommand (s : State) (v : Word32) : State :=
  { s with hosts := hostsWith (.regWrite s.cmdAddr 4 v) s.hosts, sched := .host 0 :: s.sched }

end Sys2Proof.Machine
end

