-- ==== Sys2Proof/Machine/Step.lean ====
section
/-! DEFINITION. One step of the machine, and the placing of one instruction for the next step (DESIGN CHOICE, log 6). -/

namespace Sys2Proof.Machine

/-- One atomic step (00_scope.md R9, 20_memory.md R63). -/
def step (s : State) : Host.Outcome State Fault Refusal := machineStep s

/-- `s` with the command word whose low `nbits` bits are those of `w`, the others 0, as the host's next write to CMD of
instance 0, which the next step performs (DESIGN CHOICE, log 6). -/
def State.withFetchWord (s : State) (nbits w : Nat) : State :=
  s.placeCommand (BitVec.ofNat 32 (w % 2 ^ nbits))

end Sys2Proof.Machine
end

