-- ==== Sys2Proof/Safety.lean ====
section
/-! DEFINITION. The terms the statements are written in: the step of a host event, the invariant of the machine, and a
command computing the digest of a message. -/

namespace Sys2Proof.Machine

/-! ## Events -/

/-- The next step is a host's, and it is this event. -/
abbrev State.Performs (s : State) (ev : Event) : Prop := s.nextEvent = some ev

/-- The next step is the platform's, and it is the reset event of instance `i`. -/
abbrev State.Resets (s : State) (i : Nat) : Prop := s.nextReset = some i

/-! ## The invariant -/

/-- The algorithm a stored command word selects, none where it is undefined (30_encoding.md R77). -/
def decodedAlg (v : Word32) : Option Alg :=
  match decode v with
  | .ok i => some (algOf i)
  | .error _ => none

/-- 10_state.md R45: the digest bytes from DLEN upward are 0. -/
abbrev Engine.TailZero (e : Engine) : Prop :=
  ∀ k : Fin 64, e.dlen.toNat ≤ k.val → e.digest[k] = 0x00#8

/-- A context that acceptance and the block steps can leave (10_state.md R30, R33): its range fits the memory, its block
count is that of its length, and no more blocks are done than there are. An empty range may start at 2^ADDR_W, where
40_pipeline.md R92 accepts it (DESIGN CHOICE, log 23). -/
def Ctx.ok (p : Platform) (c : Ctx) : Bool :=
  decide (c.base + c.len ≤ memBytes p) && decide (c.len < 2 ^ 64)
    && c.nblk == blockCount c.alg c.len && decide (c.blk ≤ c.nblk)

/-- What the phase says of the other registers (10_state.md R23 to R25, R30, 40_pipeline.md R91, 60_exceptions.md R245).
In IDLE no command has been written. In BUSY the context's operands and algorithm are those of the registers. In DONE
the result fits the command word, and DLEN is DL(alg) after OK and 0 after an error. -/
def Engine.phaseOk (p : Platform) (e : Engine) : Bool :=
  match e.phase with
  | .idle => e.cmd == 0#32 && e.result == .ok && e.dlen == 0#8 && !e.race
  | .busy c =>
    e.result == .ok && e.dlen == 0#8 && c.ok p && c.base == e.msgBase.toNat && c.len == e.msgLen.toNat
      && decodedAlg e.cmd == some c.alg
  | .done =>
    match e.result with
    | .ok =>
      match decodedAlg e.cmd with
      | some a => e.dlen.toNat == digestBytes a
      | none => false
    | .allocationFailure => e.dlen == 0#8 && (decodedAlg e.cmd).isSome && p.allocMayFail
    | .unsupportedAlgorithm => e.dlen == 0#8 && (decodedAlg e.cmd).isNone
    | .accessFault => e.dlen == 0#8 && (decodedAlg e.cmd).isSome

/-- The invariant of one instance. -/
abbrev Engine.Inv (p : Platform) (e : Engine) : Prop := e.phaseOk p = true ∧ e.TailZero

/-- The invariant of the machine: a legal platform with one or more instances (00_scope.md R6), a memory in canonical form inside the address space
(20_memory.md R50), and every instance in order. -/
abbrev State.Inv (s : State) : Prop :=
  s.plat.legal (s.engines.map Engine.regBase) = true ∧ Memory.wf s.mem = true
    ∧ (∀ cell ∈ s.mem, cell.1 < memBytes s.plat) ∧ ∀ e ∈ s.engines, e.Inv s.plat

/-! ## A command computing a digest -/

/-- The `len` bytes of memory from `base` upward: the message `M[k] = Mem[base + k]` (20_memory.md R54). -/
def messageAt (m : Memory) (base len : Nat) : List Byte :=
  (List.range len).map fun k => Memory.read m (base + k)

/-- No read of the message is refused (20_memory.md R52). -/
abbrev MessageReadable (p : Platform) (base len : Nat) : Prop :=
  ∀ k, k < len → readable p (base + k) = true

/-- The instance is BUSY with a command of `alg` over the message `M`, held in memory at the context's range; no race is
recorded, D is clear, and `ctx.H` is what the first `blk` blocks of the padded message give (40_pipeline.md R95, R98). -/
structure Engine.Computes (m : Memory) (e : Engine) (c : Ctx) (alg : Alg) (M : List Byte) : Prop where
  phase : e.phase = .busy c
  noRace : e.race = false
  clear : e.digest = zeroDigest
  algIs : c.alg = alg
  message : messageAt m c.base c.len = M
  count : c.nblk = blockCount alg c.len
  blkLe : c.blk ≤ c.nblk
  hash : c.h = hashBlocks alg M c.blk

/-- The instance is DONE with result OK and the digest of `M`: DLEN = DL(alg), D begins with the digest, and the rest of
D is 0 (40_pipeline.md R97, R105). -/
structure Engine.Finished (e : Engine) (alg : Alg) (M : List Byte) : Prop where
  phase : e.phase = .done
  result : e.result = .ok
  dlen : e.dlen.toNat = digestBytes alg
  digest : ∀ k : Fin 64, e.digest[k] =
    if k.val < digestBytes alg then (digestFn alg M).getD k.val 0x00#8 else 0x00#8

end Sys2Proof.Machine
end

