-- ==== Sys2Proof/Certificates/Slice0/Obligations.lean ====
section
/-! DEFINITION. The statements for the provers, each a Prop over the model. The docstrings name the rules of spec/ and the
log entries a statement rests on. -/

open Sys2Proof Sys2Proof.Machine

/-! ## Encoding (30_encoding.md) -/

/-- R77: the decoder is total, and gives the ALG table's entry exactly where RSV = 0, OP = 1 and ALG is 1 to 6. -/
def Obligations.DecoderFollowsTheFieldTable : Prop :=
  ∀ v : Word32,
    ((v.extractLsb' 8 24 = 0#24 ∧ v.extractLsb' 4 4 = 0x1#4 ∧ 1 ≤ (v.extractLsb' 0 4).toNat ∧
        (v.extractLsb' 0 4).toNat ≤ 6) →
      (decode v).toOption =
        [Instr.hashMd5, .hashSha1, .hashSha224, .hashSha256, .hashSha384, .hashSha512][(v.extractLsb' 0 4).toNat - 1]?) ∧
    (¬(v.extractLsb' 8 24 = 0#24 ∧ v.extractLsb' 4 4 = 0x1#4 ∧ 1 ≤ (v.extractLsb' 0 4).toNat ∧
        (v.extractLsb' 0 4).toNat ≤ 6) →
      ∃ u, decode v = .error u)

/-- R72: the six words written out from the table decode to the six commands. R73: four undefined words do not; the names
of what is wrong with a word, here its operation (0x00 and 0x21), its algorithm (0x17) or its reserved bits (0x111), are
the model's choice (log 21). -/
def Obligations.CommandWordsOfTheOpcodeMap : Prop :=
  decode 0x00000011#32 = .ok .hashMd5 ∧ decode 0x00000012#32 = .ok .hashSha1 ∧
  decode 0x00000013#32 = .ok .hashSha224 ∧ decode 0x00000014#32 = .ok .hashSha256 ∧
  decode 0x00000015#32 = .ok .hashSha384 ∧ decode 0x00000016#32 = .ok .hashSha512 ∧
  decode 0x00000000#32 = .error .operation ∧ decode 0x00000017#32 = .error .algorithm ∧
  decode 0x00000021#32 = .error .operation ∧ decode 0x00000111#32 = .error .reservedBits

/-- R70 to R72, R77: over all 32-bit words, a word decodes to a command if and only if it is that command's word. -/
def Obligations.DecodeAndEncodeAgree : Prop :=
  ∀ (i : Instr) (v : Word32), decode v = .ok i ↔ v = encode i

/-! ## The step and the register block -/

/-- 10_state.md R21, 30_encoding.md R76, R77: when the next step is a host write to CMD whose word decodes to a command,
the step is that command's meaning on the state with the event taken off and the instance selected. -/
def Obligations.StepRunsTheDecodedCommand : Prop :=
  ∀ (s : State) (addr j : Nat) (v : Word32) (i : Instr),
    s.Performs (.regWrite addr 4 v) → s.target addr 4 = some (j, .cmd) → decode v = .ok i → i.wellFormed = true →
      step s = exec i { s.taken with sel := j }

/-- 10_state.md R20: the register at each aligned offset of the block of the first instance whose block holds the
address (log 16). -/
def Obligations.RegisterMapOfTheBlock : Prop :=
  ∀ (s : State) (i off : Nat) (e : Engine),
    s.engine? i = some e →
    (∀ j x, j < i → s.engine? j = some x → ¬(x.regBase ≤ e.regBase + off ∧ e.regBase + off < x.regBase + 0x80)) →
    off < 0x80 → off % 4 = 0 →
      ∃ r, s.target (e.regBase + off) 4 = some (i, r) ∧
        (off = 0x00 → r = .cmd) ∧ (off = 0x04 → r = .status) ∧ (off = 0x08 → r = .msgBaseLo) ∧
        (off = 0x0C → r = .msgBaseHi) ∧ (off = 0x10 → r = .msgLenLo) ∧ (off = 0x14 → r = .msgLenHi) ∧
        (0x18 ≤ off → off ≤ 0x3C → r = .reserved) ∧
        (∀ k : Fin 16, off = 0x40 + 4 * k.val → r = .digest k)

/-- 10_state.md R41: an access of another width, outside every block, or at an offset that is no multiple of 4 is
refused by the model, read or write. Of the misaligned access it supposes that no other instance's block holds the
address. -/
def Obligations.OtherRegisterAccessesAreRefused : Prop :=
  ∀ (s : State) (addr width : Nat) (v : Word32),
    (width ≠ 4 ∨ (∀ i e, s.engine? i = some e → ¬(e.regBase ≤ addr ∧ addr < e.regBase + 0x80)) ∨
      (∃ i e, s.engine? i = some e ∧ e.regBase ≤ addr ∧ addr < e.regBase + 0x80 ∧ (addr - e.regBase) % 4 ≠ 0 ∧
        ∀ j x, j ≠ i → s.engine? j = some x → ¬(x.regBase ≤ addr ∧ addr < x.regBase + 0x80))) →
    (s.Performs (.regWrite addr width v) → step s = .refused (.registerAccess addr width)) ∧
    (s.Performs (.regRead addr width) → step s = .refused (.registerAccess addr width))

/-- 10_state.md R22, R24: the fields of STATUS, the numbers of the result codes, and that writes are ignored. -/
def Obligations.StatusFieldsAndCodes : Prop :=
  (∀ e : Engine,
    ((e.readReg .status).getLsbD 0 = true ↔ ∃ c, e.phase = .busy c) ∧
    ((e.readReg .status).getLsbD 1 = true ↔ e.phase = .done) ∧
    (e.readReg .status).extractLsb' 2 2 = 0#2 ∧
    (e.readReg .status).extractLsb' 4 4 = e.result.code ∧
    (e.readReg .status).extractLsb' 8 8 = e.dlen ∧
    (e.readReg .status).extractLsb' 16 16 = 0#16 ∧
    ¬((e.readReg .status).getLsbD 0 = true ∧ (e.readReg .status).getLsbD 1 = true) ∧
    (((e.readReg .status).getLsbD 0 = false ∧ (e.readReg .status).getLsbD 1 = false) ↔ e.phase = .idle) ∧
    ∀ v, e.writeReg .status v = e) ∧
  Result.code .ok = 0#4 ∧ Result.code .allocationFailure = 1#4 ∧ Result.code .unsupportedAlgorithm = 2#4 ∧
  Result.code .accessFault = 3#4 ∧ ∀ r : Result, r.code.toNat ≤ 3

/-- 70_reset_and_hazards.md R285: digest byte i is in DIGEST(i div 4), bits [8(i mod 4)+7 : 8(i mod 4)]; in a state that
meets the invariant DLEN is a multiple of 4 and the registers from DIGEST(DLEN/4) on read 0. -/
def Obligations.DigestRegistersHoldTheDigest : Prop :=
  (∀ (e : Engine) (i : Fin 64),
    (e.readReg (.digest (Fin.ofNat 16 (i.val / 4)))).extractLsb' (8 * (i.val % 4)) 8 = e.digest[i]) ∧
  ∀ (s : State) (i : Nat) (e : Engine), s.Inv → s.engine? i = some e →
    e.dlen.toNat % 4 = 0 ∧ ∀ k : Fin 16, e.dlen.toNat / 4 ≤ k.val → e.readReg (.digest k) = 0#32

/-- 10_state.md R26, R27, 20_memory.md R56, 30_encoding.md R74: outside BUSY a write of a half of MSG_BASE or MSG_LEN
reads back, leaves the other half and every other register alone; the operands are HI * 2^32 + LO. -/
def Obligations.MessageRegistersHaveTwoHalves : Prop :=
  ∀ (e : Engine) (v : Word32),
    e.baseOperand = (e.readReg .msgBaseHi).toNat * 2 ^ 32 + (e.readReg .msgBaseLo).toNat ∧
    e.lenOperand = (e.readReg .msgLenHi).toNat * 2 ^ 32 + (e.readReg .msgLenLo).toNat ∧
    (e.isBusy = false →
      ((e.writeReg .msgBaseLo v).readReg .msgBaseLo = v ∧
        (e.writeReg .msgBaseLo v).readReg .msgBaseHi = e.readReg .msgBaseHi ∧
        { e.writeReg .msgBaseLo v with msgBase := e.msgBase } = e) ∧
      ((e.writeReg .msgBaseHi v).readReg .msgBaseHi = v ∧
        (e.writeReg .msgBaseHi v).readReg .msgBaseLo = e.readReg .msgBaseLo ∧
        { e.writeReg .msgBaseHi v with msgBase := e.msgBase } = e) ∧
      ((e.writeReg .msgLenLo v).readReg .msgLenLo = v ∧
        (e.writeReg .msgLenLo v).readReg .msgLenHi = e.readReg .msgLenHi ∧
        { e.writeReg .msgLenLo v with msgLen := e.msgLen } = e) ∧
      ((e.writeReg .msgLenHi v).readReg .msgLenHi = v ∧
        (e.writeReg .msgLenHi v).readReg .msgLenLo = e.readReg .msgLenLo ∧
        { e.writeReg .msgLenHi v with msgLen := e.msgLen } = e))

/-- 10_state.md R26, R27: a host write of MSG_BASE or MSG_LEN outside BUSY is performed by the step, and changes that
instance alone. -/
def Obligations.MessageRegisterWriteIsOneStep : Prop :=
  ∀ (s : State) (addr i : Nat) (r : Reg) (v : Word32) (e : Engine),
    s.Performs (.regWrite addr 4 v) → s.target addr 4 = some (i, r) → s.engine? i = some e → e.isBusy = false →
    r ≠ .cmd →
      step s = .next (s.taken.setEngine i
        (match r with
          | .cmd => e
          | .status => e
          | .msgBaseLo => { e with msgBase := BitVec.ofNat 64 (e.msgBase.toNat / 2 ^ 32 * 2 ^ 32 + v.toNat) }
          | .msgBaseHi => { e with msgBase := BitVec.ofNat 64 (v.toNat * 2 ^ 32 + e.msgBase.toNat % 2 ^ 32) }
          | .msgLenLo => { e with msgLen := BitVec.ofNat 64 (e.msgLen.toNat / 2 ^ 32 * 2 ^ 32 + v.toNat) }
          | .msgLenHi => { e with msgLen := BitVec.ofNat 64 (v.toNat * 2 ^ 32 + e.msgLen.toNat % 2 ^ 32) }
          | .reserved => e
          | .digest _ => e))

/-- 70_reset_and_hazards.md R281: in BUSY a write to any register changes nothing; writes to STATUS, DIGESTk and the
reserved offsets are ignored in every phase; reads are allowed in every phase and change nothing but the host's own
record; a read of CMD returns the stored word, its reserved bits as written (10_state.md R21). The step only takes the
event off, and `sel` may move (log 15). -/
def Obligations.IgnoredWritesAndHarmlessReads : Prop :=
  ∀ (s : State) (addr i : Nat) (r : Reg) (v : Word32) (e : Engine),
    s.target addr 4 = some (i, r) → s.engine? i = some e →
    (s.Performs (.regWrite addr 4 v) →
      (e.isBusy = true ∨ r = .status ∨ r = .reserved ∨ ∃ k, r = .digest k) →
        ∃ t, step s = .next t ∧ { t with sel := s.sel } = s.taken) ∧
    (s.Performs (.regRead addr 4) → step s = .next (s.taken.record (e.readReg r))) ∧ (r = .cmd → e.readReg r = e.cmd)

/-- 10_state.md R29: the offsets 0x18 to 0x3C read 0 and ignore writes, in every phase. It supposes that no
other instance's block holds the address. -/
def Obligations.ReservedOffsetsReadZero : Prop :=
  ∀ (s : State) (i off : Nat) (v : Word32) (e : Engine),
    s.engine? i = some e →
    (∀ j x, j ≠ i → s.engine? j = some x → ¬(x.regBase ≤ e.regBase + off ∧ e.regBase + off < x.regBase + 0x80)) →
    0x18 ≤ off → off ≤ 0x3C → off % 4 = 0 →
    (s.Performs (.regRead (e.regBase + off) 4) → step s = .next (s.taken.record 0x00000000#32)) ∧
    (s.Performs (.regWrite (e.regBase + off) 4 v) → step s = .next s.taken)

/-- 30_encoding.md R76, 20_memory.md R50: POLL records STATUS and stays on its host's list exactly while it reads BUSY; a
host read of any byte of memory records it (logs 14, 19). 70_reset_and_hazards.md R287: where a reset comes between two
reads of a POLL, the next read is 0 and ends the POLL. -/
def Obligations.PollAndMemoryReadsAreRecorded : Prop :=
  (∀ (s : State) (i : Nat) (e : Engine), s.Performs (.poll i) → s.engine? i = some e →
    (e.isBusy = true →
      step s = .next { s.taken with recorded := s.recorded ++ [e.readReg .status], hosts := s.hosts }) ∧
    (e.isBusy = false → step s = .next { s.taken with recorded := s.recorded ++ [e.readReg .status] })) ∧
  (∀ (s : State) (a : Nat), s.Performs (.memRead a) → a < 2 ^ s.plat.addrW →
    step s = .next { s.taken with recorded := s.recorded ++ [(Memory.read s.mem a).setWidth 32] }) ∧
  ∀ (s : State) (h i : Nat) (e : Engine) (q : List Event) (turns : List Turn),
    s.engine? i = some e → e.isBusy = true → s.hosts[h]? = some (.poll i :: q) → s.resets.head? = some i →
    s.sched = .host h :: .platform :: .host h :: turns →
      ∃ t, Sys2Proof.core.run 3 s = .next t ∧ t.recorded = s.recorded ++ [e.readReg .status, 0x00000000#32] ∧
        (e.readReg .status).getLsbD 0 = true ∧ t.engine? i = some (Engine.reset e.regBase) ∧
        t.hosts = s.hosts.set h q ∧ t.resets = s.resets.tail ∧ t.sched = turns ∧ t.mem = s.mem

/-- 20_memory.md R50, 60_exceptions.md R251 (log 11): a host access to an address outside the memory is refused. -/
def Obligations.HostMemoryAccessesThatStop : Prop :=
  ∀ (s : State) (a : Nat) (b : Byte), 2 ^ s.plat.addrW ≤ a →
    (s.Performs (.memWrite a b) → step s = .refused (.outsideMemory a)) ∧
    (s.Performs (.memRead a) → step s = .refused (.outsideMemory a))

/-! ## Reset (70_reset_and_hazards.md) -/

/-- 10_state.md R42, R271: the registers after reset; STATUS and DIGEST0..15 read 0. The REG_BASE, the empty memory and
the model's own lists are logs 2, 3, 4, 6. -/
def Obligations.RegistersAfterReset : Prop :=
  ∃ e, State.reset.engine? 0 = some e ∧ State.reset.engine? 1 = none ∧
    e.phase = .idle ∧ e.cmd = 0#32 ∧ e.msgBase = 0#64 ∧ e.msgLen = 0#64 ∧ e.result = .ok ∧ e.dlen = 0#8 ∧
    e.race = false ∧ e.ctx = none ∧ e.readReg .status = 0#32 ∧ (∀ k : Fin 64, e.digest[k] = 0#8) ∧
    (∀ k : Fin 16, e.readReg (.digest k) = 0#32)

/-- R270: the reset event of an instance, in any phase: every register at its reset value, no context, `race` clear,
memory, what the hosts are still to do and everything else unchanged; RESULT and DONE read 0. -/
def Obligations.ResetEventClearsTheInstance : Prop :=
  ∀ (s : State) (i : Nat) (e : Engine), s.Resets i → s.engine? i = some e →
    s.taken = { s with sched := s.sched.tail, resets := s.resets.tail } ∧
    ∃ e', step s = .next { s.taken with engines := s.engines.set i e' } ∧
      e'.regBase = e.regBase ∧ e'.phase = .idle ∧ e'.cmd = 0#32 ∧ e'.msgBase = 0#64 ∧ e'.msgLen = 0#64 ∧
      e'.result = .ok ∧ e'.dlen = 0#8 ∧ (∀ k : Fin 64, e'.digest[k] = 0#8) ∧ e'.ctx = none ∧ e'.race = false ∧
      e'.readReg .status = 0#32

/-! ## Acceptance, one statement per command (40_pipeline.md R90 to R93) -/

/-- 42_md5.md R140, R142: HASH.MD5 outside BUSY, its range in memory. -/
def Obligations.HashMd5IsAccepted : Prop :=
  ∀ (s : State) (e : Engine), s.engine? s.sel = some e → e.isBusy = false → s.plat.allocMayFail = false →
    e.msgBase.toNat + e.msgLen.toNat ≤ 2 ^ s.plat.addrW →
    meetsSideEffect s.plat e.msgBase.toNat e.msgLen.toNat = false →
      exec .hashMd5 s = .next { s with
        engines := s.engines.set s.sel
          { e with
            cmd := 0x00000011#32, digest := Vector.replicate 64 0#8, dlen := 0#8, race := false, result := .ok
            phase := .busy
              { base := e.msgBase.toNat, len := e.msgLen.toNat, nblk := (e.msgLen.toNat + 8) / 64 + 1, blk := 0
                h := .md5 { a := 0x67452301#32, b := 0xefcdab89#32, c := 0x98badcfe#32, d := 0x10325476#32 } } } }

/-- 43_sha1.md R160, R162: HASH.SHA1 outside BUSY, its range in memory. -/
def Obligations.HashSha1IsAccepted : Prop :=
  ∀ (s : State) (e : Engine), s.engine? s.sel = some e → e.isBusy = false → s.plat.allocMayFail = false →
    e.msgBase.toNat + e.msgLen.toNat ≤ 2 ^ s.plat.addrW →
    meetsSideEffect s.plat e.msgBase.toNat e.msgLen.toNat = false →
      exec .hashSha1 s = .next { s with
        engines := s.engines.set s.sel
          { e with
            cmd := 0x00000012#32, digest := Vector.replicate 64 0#8, dlen := 0#8, race := false, result := .ok
            phase := .busy
              { base := e.msgBase.toNat, len := e.msgLen.toNat, nblk := (e.msgLen.toNat + 8) / 64 + 1, blk := 0
                h := .sha1
                  { a := 0x67452301#32, b := 0xefcdab89#32, c := 0x98badcfe#32, d := 0x10325476#32
                    e := 0xc3d2e1f0#32 } } } }

/-- 44_sha256.md R180, R183: HASH.SHA224 outside BUSY, its range in memory. -/
def Obligations.HashSha224IsAccepted : Prop :=
  ∀ (s : State) (e : Engine), s.engine? s.sel = some e → e.isBusy = false → s.plat.allocMayFail = false →
    e.msgBase.toNat + e.msgLen.toNat ≤ 2 ^ s.plat.addrW →
    meetsSideEffect s.plat e.msgBase.toNat e.msgLen.toNat = false →
      exec .hashSha224 s = .next { s with
        engines := s.engines.set s.sel
          { e with
            cmd := 0x00000013#32, digest := Vector.replicate 64 0#8, dlen := 0#8, race := false, result := .ok
            phase := .busy
              { base := e.msgBase.toNat, len := e.msgLen.toNat, nblk := (e.msgLen.toNat + 8) / 64 + 1, blk := 0
                h := .sha224
                  { a := 0xc1059ed8#32, b := 0x367cd507#32, c := 0x3070dd17#32, d := 0xf70e5939#32
                    e := 0xffc00b31#32, f := 0x68581511#32, g := 0x64f98fa7#32, h := 0xbefa4fa4#32 } } } }

/-- 44_sha256.md R181, R182: HASH.SHA256 outside BUSY, its range in memory. -/
def Obligations.HashSha256IsAccepted : Prop :=
  ∀ (s : State) (e : Engine), s.engine? s.sel = some e → e.isBusy = false → s.plat.allocMayFail = false →
    e.msgBase.toNat + e.msgLen.toNat ≤ 2 ^ s.plat.addrW →
    meetsSideEffect s.plat e.msgBase.toNat e.msgLen.toNat = false →
      exec .hashSha256 s = .next { s with
        engines := s.engines.set s.sel
          { e with
            cmd := 0x00000014#32, digest := Vector.replicate 64 0#8, dlen := 0#8, race := false, result := .ok
            phase := .busy
              { base := e.msgBase.toNat, len := e.msgLen.toNat, nblk := (e.msgLen.toNat + 8) / 64 + 1, blk := 0
                h := .sha256
                  { a := 0x6a09e667#32, b := 0xbb67ae85#32, c := 0x3c6ef372#32, d := 0xa54ff53a#32
                    e := 0x510e527f#32, f := 0x9b05688c#32, g := 0x1f83d9ab#32, h := 0x5be0cd19#32 } } } }

/-- 45_sha512.md R210, R213: HASH.SHA384 outside BUSY, its range in memory. -/
def Obligations.HashSha384IsAccepted : Prop :=
  ∀ (s : State) (e : Engine), s.engine? s.sel = some e → e.isBusy = false → s.plat.allocMayFail = false →
    e.msgBase.toNat + e.msgLen.toNat ≤ 2 ^ s.plat.addrW →
    meetsSideEffect s.plat e.msgBase.toNat e.msgLen.toNat = false →
      exec .hashSha384 s = .next { s with
        engines := s.engines.set s.sel
          { e with
            cmd := 0x00000015#32, digest := Vector.replicate 64 0#8, dlen := 0#8, race := false, result := .ok
            phase := .busy
              { base := e.msgBase.toNat, len := e.msgLen.toNat, nblk := (e.msgLen.toNat + 16) / 128 + 1, blk := 0
                h := .sha384
                  { a := 0xcbbb9d5dc1059ed8#64, b := 0x629a292a367cd507#64, c := 0x9159015a3070dd17#64
                    d := 0x152fecd8f70e5939#64, e := 0x67332667ffc00b31#64, f := 0x8eb44a8768581511#64
                    g := 0xdb0c2e0d64f98fa7#64, h := 0x47b5481dbefa4fa4#64 } } } }

/-- 45_sha512.md R211, R212: HASH.SHA512 outside BUSY, its range in memory. -/
def Obligations.HashSha512IsAccepted : Prop :=
  ∀ (s : State) (e : Engine), s.engine? s.sel = some e → e.isBusy = false → s.plat.allocMayFail = false →
    e.msgBase.toNat + e.msgLen.toNat ≤ 2 ^ s.plat.addrW →
    meetsSideEffect s.plat e.msgBase.toNat e.msgLen.toNat = false →
      exec .hashSha512 s = .next { s with
        engines := s.engines.set s.sel
          { e with
            cmd := 0x00000016#32, digest := Vector.replicate 64 0#8, dlen := 0#8, race := false, result := .ok
            phase := .busy
              { base := e.msgBase.toNat, len := e.msgLen.toNat, nblk := (e.msgLen.toNat + 16) / 128 + 1, blk := 0
                h := .sha512
                  { a := 0x6a09e667f3bcc908#64, b := 0xbb67ae8584caa73b#64, c := 0x3c6ef372fe94f82b#64
                    d := 0xa54ff53a5f1d36f1#64, e := 0x510e527fade682d1#64, f := 0x9b05688c2b3e6c1f#64
                    g := 0x1f83d9abfb41bd6b#64, h := 0x5be0cd19137e2179#64 } } } }

/-- 40_pipeline.md R90, 60_exceptions.md R242, R244, R246, 20_memory.md R59: what each of the six commands does outside
BUSY, in the order of its checks: a failed allocation draw, a range that does not fit, a message over side-effect memory
(refused by the model, log 9), or BUSY. `race` is cleared in every case (R250), in the two error cases by log 18; the
raised error goes to the model's own log (log 13). It holds whatever the free draw is (log 7), which no concrete state can
show. -/
def Obligations.AcceptanceChecksInOrder : Prop :=
  ∀ (i : Instr) (s : State) (e : Engine), s.engine? s.sel = some e → e.isBusy = false →
    exec i s =
      if s.plat.allocMayFail = true ∧ Config.allocDraw s.draws = true then
        .next { s with
          draws := s.draws + 1
          trace := s.trace ++ [.raised s.sel .allocationFailure .nothing]
          engines := s.engines.set s.sel
            { e with
              cmd := encode i, digest := Vector.replicate 64 0#8, dlen := 0#8, race := false
              result := .allocationFailure, phase := .done } }
      else if 2 ^ s.plat.addrW < e.msgBase.toNat + e.msgLen.toNat then
        .next { s with
          draws := if s.plat.allocMayFail = true then s.draws + 1 else s.draws
          trace := s.trace ++ [.raised s.sel .accessFault .range]
          engines := s.engines.set s.sel
            { e with
              cmd := encode i, digest := Vector.replicate 64 0#8, dlen := 0#8, race := false
              result := .accessFault, phase := .done } }
      else if meetsSideEffect s.plat e.msgBase.toNat e.msgLen.toNat = true then
        .refused (.sideEffectMemory e.msgBase.toNat e.msgLen.toNat)
      else
        .next { s with
          draws := if s.plat.allocMayFail = true then s.draws + 1 else s.draws
          engines := s.engines.set s.sel
            { e with
              cmd := encode i, digest := Vector.replicate 64 0#8, dlen := 0#8, race := false, result := .ok
              phase := .busy
                { base := e.msgBase.toNat, len := e.msgLen.toNat, nblk := blockCount (algOf i) e.msgLen.toNat
                  blk := 0, h := iv (algOf i) } } }

/-- 60_exceptions.md R243: a CMD write outside BUSY of any word but the six ends at once in UnsupportedAlgorithm; CMD
keeps the word and reads back as it, D and DLEN are clear, and no memory is read. `race` is cleared too (R250, log 18);
the raised error goes to the model's own log (log 13), and `sel` is the model's own (log 15). -/
def Obligations.UndefinedWordEndsUnsupported : Prop :=
  ∀ (s : State) (addr j : Nat) (v : Word32) (e : Engine),
    s.Performs (.regWrite addr 4 v) → s.target addr 4 = some (j, .cmd) → s.engine? j = some e → e.isBusy = false →
    v ∉ [0x00000011#32, 0x00000012#32, 0x00000013#32, 0x00000014#32, 0x00000015#32, 0x00000016#32] →
      (∀ x : Engine, x.cmd = v → x.readReg .cmd = v) ∧
      step s = .next { s.taken with
        sel := j
        trace := s.trace ++ [.raised j .unsupportedAlgorithm .nothing]
        engines := s.engines.set j
          { e with
              cmd := v, digest := Vector.replicate 64 0#8, dlen := 0#8, race := false
              result := .unsupportedAlgorithm, phase := .done } }

/-- 40_pipeline.md R90, R91, 10_state.md R38: the frame of the six commands. In BUSY nothing changes. Outside it only
the selected instance changes, and there not REG_BASE, MSG_BASE or MSG_LEN; memory is not changed and not read; of the
model's own state only the log of raised errors and the count of draws may grow. -/
def Obligations.CommandsLeaveTheRestAlone : Prop :=
  ∀ (i : Instr) (s t : State), exec i s = .next t →
    t.plat = s.plat ∧ t.sel = s.sel ∧ t.hosts = s.hosts ∧ t.resets = s.resets ∧ t.sched = s.sched ∧ t.recorded = s.recorded ∧
    (∀ a, Memory.read t.mem a = Memory.read s.mem a) ∧
    (∀ j, j ≠ s.sel → t.engine? j = s.engine? j) ∧
    (t.trace = s.trace ∨ ∃ r info, t.trace = s.trace ++ [.raised s.sel r info]) ∧
    (t.draws = s.draws ∨ (s.plat.allocMayFail = true ∧ t.draws = s.draws + 1)) ∧
    ∃ e e', s.engine? s.sel = some e ∧ t.engine? s.sel = some e' ∧
      e'.regBase = e.regBase ∧ e'.msgBase = e.msgBase ∧ e'.msgLen = e.msgLen ∧
      (e.isBusy = true → t = s) ∧ (e.isBusy = false → e'.cmd = encode i)

/-! ## Engine steps (40_pipeline.md R95 to R97, R110) -/

/-- R95, 20_memory.md R51, R53: a block step whose message bytes are all readable compresses the next block, made of
memory bytes inside the message and padding after it, and reads exactly those message bytes, in rising order. -/
def Obligations.BlockStepCompressesTheNextBlock : Prop :=
  ∀ (s : State) (i : Nat) (e : Engine) (c : Ctx),
    s.engine? i = some e → e.phase = .busy c → c.blk < c.nblk →
    (∀ k, c.blk * blockBytes c.alg ≤ k → k < (c.blk + 1) * blockBytes c.alg → k < c.len →
      readable s.plat (c.base + k) = true) →
      engineStep s i = { s with
        trace := s.trace ++ (List.range (min (blockBytes c.alg) (c.len - c.blk * blockBytes c.alg))).map
          (fun j => TraceEntry.read i (c.base + (c.blk * blockBytes c.alg + j)))
        engines := s.engines.set i
          { e with
              phase := .busy
                { c with
                  blk := c.blk + 1
                  h := compress c.h ((List.range (blockBytes c.alg)).map fun j =>
                    if c.blk * blockBytes c.alg + j < c.len then
                      Memory.read s.mem (c.base + (c.blk * blockBytes c.alg + j))
                    else padByte c.alg c.len (c.blk * blockBytes c.alg + j)) } } }

/-- R96: the lowest refused read of a block ends the command with AccessFault; the bytes before it were read, none after
it, ctx.H is gone, there is no digest, and the log holds the address. -/
def Obligations.RefusedReadEndsTheCommand : Prop :=
  ∀ (s : State) (i k : Nat) (e : Engine) (c : Ctx),
    s.engine? i = some e → e.phase = .busy c → c.blk < c.nblk →
    c.blk * blockBytes c.alg ≤ k → k < (c.blk + 1) * blockBytes c.alg → k < c.len →
    readable s.plat (c.base + k) = false →
    (∀ j, c.blk * blockBytes c.alg ≤ j → j < k → readable s.plat (c.base + j) = true) →
      engineStep s i = { s with
        trace := s.trace
          ++ (List.range (k - c.blk * blockBytes c.alg)).map
              (fun j => TraceEntry.read i (c.base + (c.blk * blockBytes c.alg + j)))
          ++ [.raised i .accessFault (.addr (c.base + k))]
        engines := s.engines.set i
          { e with
              digest := Vector.replicate 64 0#8, dlen := 0#8, result := .accessFault, phase := .done } }

/-- R97: the finish step of a command without a race writes D[0..DL-1] from the serialized state, DLEN, RESULT = OK and
phase DONE in one step, and nothing else. -/
def Obligations.FinishStepWritesTheDigest : Prop :=
  ∀ (s : State) (i : Nat) (e : Engine) (c : Ctx),
    s.engine? i = some e → e.phase = .busy c → c.blk = c.nblk → e.race = false →
      engineStep s i = { s with
        engines := s.engines.set i
          { e with
            digest := Vector.ofFn fun k =>
              if k.val < digestBytes c.alg then (serialize c.h).getD k.val 0#8 else e.digest[k]
            dlen := BitVec.ofNat 8 (digestBytes c.alg), result := .ok, phase := .done } }

/-- 60_exceptions.md R250, 93 U9 (log 8): a raced command still finishes, with RESULT = OK and DLEN = DL; its digest bytes
are free values, the rest of D stays, and nothing else changes but the count of free values. It holds whatever the free
values are. -/
def Obligations.RacedCommandStillFinishes : Prop :=
  ∀ (s : State) (i : Nat) (e : Engine) (c : Ctx),
    s.engine? i = some e → e.phase = .busy c → c.blk = c.nblk → e.race = true →
      engineStep s i = { s with
        draws := s.draws + 1
        engines := s.engines.set i
          { e with
              digest := Vector.ofFn fun k =>
                if k.val < digestBytes c.alg then Config.raceDigest s.draws k.val else e.digest[k]
              dlen := BitVec.ofNat 8 (digestBytes c.alg), result := .ok, phase := .done } }

/-- R110: an engine has no step in IDLE and DONE; in BUSY the block step where a block is left (one more block done, or
the command ended by AccessFault), otherwise the finish step. -/
def Obligations.OneEngineStepIsEnabled : Prop :=
  ∀ (s : State) (i : Nat) (e : Engine), s.engine? i = some e →
    (e.phase = .idle ∨ e.phase = .done → engineStep s i = s) ∧
    ∀ c, e.phase = .busy c → ∃ e', (engineStep s i).engine? i = some e' ∧
      (c.blk < c.nblk →
        (∃ c', e'.phase = .busy c' ∧ c'.blk = c.blk + 1 ∧ c'.nblk = c.nblk ∧ c'.alg = c.alg ∧ c'.base = c.base ∧
          c'.len = c.len) ∨
        (e'.phase = .done ∧ e'.result = .accessFault)) ∧
      (c.nblk ≤ c.blk → e'.phase = .done ∧ e'.result = .ok)

/-- 10_state.md R31, R37, R38, 20_memory.md R50: an engine's step changes no memory byte, no other instance, no host
state, and of its own instance not REG_BASE, CMD, MSG_BASE, MSG_LEN or `race`. -/
def Obligations.EngineStepsLeaveTheRestAlone : Prop :=
  ∀ (s : State) (i : Nat),
    (engineStep s i).plat = s.plat ∧ (engineStep s i).mem = s.mem ∧ (engineStep s i).sel = s.sel ∧
    (engineStep s i).hosts = s.hosts ∧ (engineStep s i).resets = s.resets ∧ (engineStep s i).sched = s.sched ∧
    (engineStep s i).recorded = s.recorded ∧
    (∀ j, j ≠ i → (engineStep s i).engine? j = s.engine? j) ∧
    ∀ e, s.engine? i = some e → ∃ e', (engineStep s i).engine? i = some e' ∧
      e'.regBase = e.regBase ∧ e'.cmd = e.cmd ∧ e'.msgBase = e.msgBase ∧ e'.msgLen = e.msgLen ∧ e'.race = e.race

/-- 10_state.md R38, 20_memory.md R51: what an engine's step makes of its instance depends only on the platform, the
instance, and the message's own bytes (and on the count of free values, which only a raced finish reads): nothing of
another instance, of the rest of memory, or of the host reaches it. -/
def Obligations.EngineReadsOnlyItsMessage : Prop :=
  ∀ (s s' : State) (i : Nat) (e : Engine),
    s'.plat = s.plat → s.engine? i = some e → s'.engine? i = some e → s'.draws = s.draws →
    (∀ c, e.phase = .busy c → ∀ k, k < c.len →
      Memory.read s'.mem (c.base + k) = Memory.read s.mem (c.base + k)) →
      (engineStep s' i).engine? i = (engineStep s i).engine? i

/-- 10_state.md R40, 40_pipeline.md R105: a block step that leaves the command BUSY is invisible: every register reads as
before. -/
def Obligations.BlockStepIsInvisible : Prop :=
  ∀ (s : State) (i : Nat) (e e' : Engine) (c : Ctx),
    s.engine? i = some e → e.phase = .busy c → (engineStep s i).engine? i = some e' → e'.isBusy = true →
      ∀ r, e'.readReg r = e.readReg r

/-! ## Memory and the message race -/

/-- 20_memory.md R69: a host write of a byte is performed, leaves every other byte alone and the memory in canonical form,
and sets `race` on exactly the BUSY instances whose message holds the address; nothing else of the state changes. -/
def Obligations.HostWritesRecordRaces : Prop :=
  ∀ (s : State) (a : Nat) (b : Byte), s.Performs (.memWrite a b) → Memory.wf s.mem = true → a < 2 ^ s.plat.addrW →
    ∃ t, step s = .next t ∧
      { t with mem := s.mem, engines := s.engines } = s.taken ∧ Memory.wf t.mem = true ∧
      (∀ a', Memory.read t.mem a' = if a' = a then b else Memory.read s.mem a') ∧
      t.engines.length = s.engines.length ∧
      ∀ i e, s.engine? i = some e → ∃ e', t.engine? i = some e' ∧ { e' with race := e.race } = e ∧
        (e'.race = true ↔ e.race = true ∨ ∃ c, e.phase = .busy c ∧ c.base ≤ a ∧ a < c.base + c.len)

/-! ## Invariants and whole-machine rules -/

/-- 10_state.md R42, R45, 70_reset_and_hazards.md R270, R271: the invariant holds after reset, on every legal platform
(00_scope.md R6: one or more instances, at any REG_BASEs), whatever its memory holds. -/
def Obligations.ResetMeetsTheInvariant : Prop :=
  State.reset.Inv ∧
  ∀ (p : Platform) (bases : List Nat) (mem : Memory), p.legal bases = true → Memory.wf mem = true →
    (∀ cell ∈ mem, cell.1 < 2 ^ p.addrW) → (State.resetOn p bases mem).Inv

/-- 10_state.md R23 to R25, R30, R33, R36, R45, 40_pipeline.md R91: every step keeps the invariant, from every state that
meets it. -/
def Obligations.EveryStepKeepsTheInvariant : Prop :=
  ∀ s t : State, s.Inv → step s = .next t → t.Inv

/-- 10_state.md R25, R40, R45, 40_pipeline.md R109, 70_reset_and_hazards.md R283: in a state that meets the invariant, an
instance in BUSY reads STATUS = 1; in BUSY and after an error DLEN and every DIGESTk read 0; after OK, CMD holds one of
the six words and DLEN is that command's digest length. -/
def Obligations.DigestIsShownOnlyAfterOk : Prop :=
  ∀ (s : State) (i : Nat) (e : Engine), s.Inv → s.engine? i = some e →
    (e.isBusy = true → e.readReg .status = 0x00000001#32) ∧
    (¬(e.isDone = true ∧ e.result = .ok) → e.dlen = 0#8 ∧ ∀ k, e.readReg (.digest k) = 0x00000000#32) ∧
    (e.isDone = true → e.result = .ok → ∃ i, e.cmd = encode i ∧ e.dlen.toNat = digestBytes (algOf i)) ∧
    (e.isDone = true → e.result = .accessFault → ∃ i, e.cmd = encode i) ∧
    (e.isDone = true → (e.result = .unsupportedAlgorithm ↔ ∀ i, e.cmd ≠ encode i))

/-- 70_reset_and_hazards.md R273: IDLE is left only by an accepted CMD write and entered only by reset; DONE lasts until
the next accepted CMD write or reset; STATUS = 0 exactly in IDLE. -/
def Obligations.PhasesChangeOnlyAsStated : Prop :=
  ∀ (s t : State) (i : Nat) (e e' : Engine), step s = .next t → s.engine? i = some e → t.engine? i = some e' →
    (e'.phase = .idle → e.phase = .idle ∨ s.Resets i) ∧
    (e.phase = .idle → e'.phase ≠ .idle →
      ∃ addr v, s.Performs (.regWrite addr 4 v) ∧ s.target addr 4 = some (i, .cmd)) ∧
    (e.phase = .done → e'.phase ≠ .done →
      s.Resets i ∨ ∃ addr v, s.Performs (.regWrite addr 4 v) ∧ s.target addr 4 = some (i, .cmd)) ∧
    (s.Inv → (e.readReg .status = 0#32 ↔ e.phase = .idle))

/-- 70_reset_and_hazards.md R275, R281: CMD, MSG_BASE and MSG_LEN of an instance change only by a host write to its own
block outside BUSY, and by its reset. -/
def Obligations.OnlyHostWritesChangeTheOperands : Prop :=
  ∀ (s t : State) (i : Nat) (e e' : Engine), step s = .next t → s.engine? i = some e → t.engine? i = some e' →
    (e'.cmd ≠ e.cmd ∨ e'.msgBase ≠ e.msgBase ∨ e'.msgLen ≠ e.msgLen) →
      s.Resets i ∨
      (e.isBusy = false ∧ ∃ addr v r, s.Performs (.regWrite addr 4 v) ∧ s.target addr 4 = some (i, r))

/-- 00_scope.md R6, R8, 20_memory.md R50: no step changes a parameter of the platform, the number of instances or a
REG_BASE, and only a host write of memory changes memory. That the refused and the side-effect addresses (20_memory.md R52, R59) stay
as they are too is the model's choice (log 1). -/
def Obligations.ParametersAndMemoryStayPut : Prop :=
  ∀ s t : State, step s = .next t →
    t.plat = s.plat ∧ t.engines.map Engine.regBase = s.engines.map Engine.regBase ∧
    (t.mem = s.mem ∨ ∃ a b, s.Performs (.memWrite a b))

/-- 40_pipeline.md R94, 60_exceptions.md R242: where `alloc_may_fail` is false no step makes a result AllocationFailure;
an instance shows it after a step only where it showed it before. -/
def Obligations.AllocationNeverFailsHere : Prop :=
  ∀ (s t : State) (i : Nat) (e' : Engine), s.plat.allocMayFail = false → step s = .next t → t.engine? i = some e' →
    e'.result = .allocationFailure →
      ∃ e, s.engine? i = some e ∧ e.result = .allocationFailure

/-! ## The pipeline computes the digest (40_pipeline.md R98, R105, R106, R108) -/

/-- R105, R106: each of the six commands, accepted with its message readable, is BUSY for exactly nblk block steps and then
finishes in one more step with RESULT = OK and D the digest of the message; memory, the other instances and the host's
lists are as before. -/
def Obligations.CommandReachesItsDigest : Prop :=
  ∀ (i : Instr) (s : State) (e : Engine) (rest : List Turn),
    s.engine? s.sel = some e → e.isBusy = false → s.plat.allocMayFail = false →
    e.msgBase.toNat + e.msgLen.toNat ≤ 2 ^ s.plat.addrW →
    meetsSideEffect s.plat e.msgBase.toNat e.msgLen.toNat = false →
    MessageReadable s.plat e.msgBase.toNat e.msgLen.toNat →
      ∃ t n, exec i s = .next t ∧
        n = (e.msgLen.toNat + lenBytes (algOf i)) / blockBytes (algOf i) + 1 ∧
        (∀ k, k ≤ n → ∃ v x c,
          Sys2Proof.core.run k { t with sched := List.replicate (n + 1) (.engine s.sel) ++ rest } = .next v ∧
          v.engine? s.sel = some x ∧ x.phase = .busy c ∧ c.blk = k) ∧
        ∃ u x,
          Sys2Proof.core.run (n + 1) { t with sched := List.replicate (n + 1) (.engine s.sel) ++ rest } = .next u ∧
          u.engine? s.sel = some x ∧
          x.Finished (algOf i) (messageAt s.mem e.msgBase.toNat e.msgLen.toNat) ∧
          u.mem = s.mem ∧ u.sched = rest ∧ u.hosts = s.hosts ∧ u.resets = s.resets ∧ u.recorded = s.recorded ∧
          ∀ j, j ≠ s.sel → u.engine? j = s.engine? j

/-- R105 under every interleaving: whatever step the machine takes (an engine's, a host's or the platform's), a command
that is computing the digest of M goes on doing so, or finishes with that digest; it leaves this only by a refused read,
by its reset, or by a host write into its message, which is recorded. -/
def Obligations.EveryStepKeepsTheComputation : Prop :=
  ∀ (s t : State) (i : Nat) (e : Engine) (c : Ctx) (alg : Alg) (M : List Byte),
    Memory.wf s.mem = true → s.engine? i = some e → e.Computes s.mem c alg M → step s = .next t →
      ∃ e', t.engine? i = some e' ∧
        ((∃ c', e'.Computes t.mem c' alg M ∧ c'.base = c.base ∧ c'.len = c.len ∧ c'.nblk = c.nblk ∧
            (c'.blk = c.blk ∨ c'.blk = c.blk + 1)) ∨
         (c.blk = c.nblk ∧ e'.Finished alg M) ∨
         (e'.phase = .done ∧ e'.result = .accessFault ∧ ∃ k, k < c.len ∧ readable s.plat (c.base + k) = false) ∨
         (s.Resets i ∧ e' = Engine.reset e.regBase) ∨
         (∃ a b, s.Performs (.memWrite a b) ∧ c.base ≤ a ∧ a < c.base + c.len ∧ e'.race = true ∧
            e'.phase = e.phase))

/-- R247, 60_exceptions.md R263, 70_reset_and_hazards.md R288: a command in BUSY that is given its engine steps reaches
DONE, with RESULT = OK or AccessFault, whatever the memory refuses and whatever was raced. -/
def Obligations.BusyCommandEnds : Prop :=
  ∀ (s : State) (i : Nat) (e : Engine) (c : Ctx) (rest : List Turn),
    s.engine? i = some e → e.phase = .busy c → c.blk ≤ c.nblk →
    s.sched = List.replicate (c.nblk - c.blk + 1) (.engine i) ++ rest →
      ∃ t e', Sys2Proof.core.run (c.nblk - c.blk + 1) s = .next t ∧ t.engine? i = some e' ∧ e'.phase = .done ∧
        (e'.result = .ok ∨ e'.result = .accessFault)

/-- R108: two commands of one algorithm over the same message bytes, in any two machines, on any instances, at any
addresses, give the same digest and DLEN. -/
def Obligations.SameMessageSameDigest : Prop :=
  ∀ (s s' : State) (i i' : Nat) (e e' : Engine) (c c' : Ctx) (alg : Alg) (M : List Byte),
    s.engine? i = some e → s'.engine? i' = some e' → e.Computes s.mem c alg M → e'.Computes s'.mem c' alg M →
    MessageReadable s.plat c.base c.len → MessageReadable s'.plat c'.base c'.len →
    s.sched = List.replicate (c.nblk - c.blk + 1) (.engine i) →
    s'.sched = List.replicate (c'.nblk - c'.blk + 1) (.engine i') →
      ∃ t t' x x',
        Sys2Proof.core.run (c.nblk - c.blk + 1) s = .next t ∧ Sys2Proof.core.run (c'.nblk - c'.blk + 1) s' = .next t' ∧
        t.engine? i = some x ∧ t'.engine? i' = some x' ∧ x.isDone = true ∧ x'.isDone = true ∧
        x.digest = x'.digest ∧ x.dlen = x'.dlen

/-! ## Padding (41_padding.md) -/

/-- R121: both forms of the padded length, that it is the least multiple of BS that holds message, terminator and length
field, and the zero count. -/
def Obligations.PaddedLengthIsTheLeastMultiple : Prop :=
  ∀ (alg : Alg) (L : Nat),
    paddedLen alg L = blockBytes alg * ((L + 1 + lenBytes alg + (blockBytes alg - 1)) / blockBytes alg) ∧
    paddedLen alg L = blockBytes alg * ((L + lenBytes alg) / blockBytes alg + 1) ∧
    L + 1 + lenBytes alg + zeroCount alg L = paddedLen alg L ∧ zeroCount alg L ≤ blockBytes alg - 1 ∧
    ∀ m, L + 1 + lenBytes alg ≤ blockBytes alg * m → paddedLen alg L ≤ blockBytes alg * m

/-- R122: the block count, at least 1, with one more block exactly when the last partial block has no room. -/
def Obligations.BlockCountAndSpill : Prop :=
  ∀ (alg : Alg) (L : Nat),
    blockCount alg L = paddedLen alg L / blockBytes alg ∧
    blockCount alg L = (L + lenBytes alg) / blockBytes alg + 1 ∧ 1 ≤ blockCount alg L ∧
    (blockBytes alg - lenBytes alg ≤ L % blockBytes alg ↔ blockCount alg L = L / blockBytes alg + 2) ∧
    (L % blockBytes alg < blockBytes alg - lenBytes alg ↔ blockCount alg L = L / blockBytes alg + 1)

/-- R120, R125, R130: the padded message has P bytes; byte k is the message's for k < L, 0x80 at L, 0 up to the length
field, and the length field's last; padding adds from 1 + LF to BS + LF bytes. -/
def Obligations.PaddedMessageByteByByte : Prop :=
  ∀ (alg : Alg) (M : List Byte),
    (pad alg M).length = paddedLen alg M.length ∧
    1 + lenBytes alg ≤ paddedLen alg M.length - M.length ∧
    paddedLen alg M.length - M.length ≤ blockBytes alg + lenBytes alg ∧
    (∀ k, k < M.length → (pad alg M)[k]? = M[k]?) ∧
    (pad alg M)[M.length]? = some 0x80#8 ∧
    (∀ k, M.length < k → k < paddedLen alg M.length - lenBytes alg → (pad alg M)[k]? = some 0x00#8) ∧
    (∀ j, j < lenBytes alg →
      (pad alg M)[paddedLen alg M.length - lenBytes alg + j]? = (lenField alg M.length)[j]?) ∧
    ∀ k, M.length ≤ k → k < paddedLen alg M.length → (pad alg M)[k]? = some (padByte alg M.length k)

/-- R129: the last LF bytes of the padded message, read in the algorithm's byte order, are 8L exactly when 8L fits the
field, and 8L modulo 2^64 or 2^128 always; with L < 2^64 the 128-bit field is always exact, the 64-bit one for L < 2^61. -/
def Obligations.LengthFieldRoundTrip : Prop :=
  ∀ (alg : Alg) (M : List Byte) (v : Nat),
    v = (if lenLittleEndian alg = true then
          ((pad alg M).drop ((pad alg M).length - lenBytes alg)).foldr (fun b n => b.toNat + 256 * n) 0
        else ((pad alg M).drop ((pad alg M).length - lenBytes alg)).foldl (fun n b => n * 256 + b.toNat) 0) →
      v = 8 * M.length % 2 ^ (8 * lenBytes alg) ∧
      (v = 8 * M.length ↔ 8 * M.length < 2 ^ (8 * lenBytes alg)) ∧
      (alg = .sha384 ∨ alg = .sha512 → M.length < 2 ^ 64 → v = 8 * M.length) ∧
      (alg ≠ .sha384 → alg ≠ .sha512 → (v = 8 * M.length ↔ M.length < 2 ^ 61))

/-- R126: the block step builds exactly block n of the padded message of the bytes that memory holds at its range. -/
def Obligations.BlockStepBuildsThePaddedBlock : Prop :=
  ∀ (p : Platform) (m : Memory) (alg : Alg) (base len n : Nat),
    MessageReadable p base len → n < blockCount alg len →
      (gather p m alg base len (n * blockBytes alg) (blockBytes alg)).bytes =
        ((pad alg (messageAt m base len)).drop (n * blockBytes alg)).take (blockBytes alg) ∧
      (gather p m alg base len (n * blockBytes alg) (blockBytes alg)).bytes.length = blockBytes alg ∧
      (gather p m alg base len (n * blockBytes alg) (blockBytes alg)).refusedAt = none

/-- R128: the empty message pads to one block, 0x80 and zeros, its length field all zeros; no memory is read, whatever
the platform refuses. -/
def Obligations.EmptyMessageReadsNothing : Prop :=
  ∀ (alg : Alg),
    blockCount alg 0 = 1 ∧ pad alg [] = 0x80#8 :: List.replicate (blockBytes alg - 1) 0x00#8 ∧
    lenField alg 0 = List.replicate (lenBytes alg) 0x00#8 ∧
    ∀ (p : Platform) (m : Memory) (base : Nat),
      gather p m alg base 0 0 (blockBytes alg) = { bytes := pad alg [], reads := [], refusedAt := none }

/-! ## Words and functions -/

/-- 00_scope.md R12: bit i of a rotation, for 0 < n < w. -/
def Obligations.RotationsMoveEveryBit : Prop :=
  ∀ (w n i : Nat) (x : BitVec w), 0 < n → n < w → i < w →
    (rotl x n).getLsbD ((i + n) % w) = x.getLsbD i ∧ (rotr x n).getLsbD i = x.getLsbD ((i + n) % w)

/-- 40_pipeline.md R100 to R103: the value of each loaded word by its block bytes; and each loader reads back what the
serializer of its byte order wrote. -/
def Obligations.LoadersInvertTheSerializer : Prop :=
  (∀ (B : List Byte) (j : Nat), (le32 B j).toNat =
    (blockByte B (4 * j)).toNat + (blockByte B (4 * j + 1)).toNat * 2 ^ 8 +
      (blockByte B (4 * j + 2)).toNat * 2 ^ 16 + (blockByte B (4 * j + 3)).toNat * 2 ^ 24) ∧
  (∀ (B : List Byte) (j : Nat), (be32 B j).toNat =
    (blockByte B (4 * j)).toNat * 2 ^ 24 + (blockByte B (4 * j + 1)).toNat * 2 ^ 16 +
      (blockByte B (4 * j + 2)).toNat * 2 ^ 8 + (blockByte B (4 * j + 3)).toNat) ∧
  (∀ (B : List Byte) (j : Nat), (be64 B j).toNat =
    (blockByte B (8 * j)).toNat * 2 ^ 56 + (blockByte B (8 * j + 1)).toNat * 2 ^ 48 +
      (blockByte B (8 * j + 2)).toNat * 2 ^ 40 + (blockByte B (8 * j + 3)).toNat * 2 ^ 32 +
      (blockByte B (8 * j + 4)).toNat * 2 ^ 24 + (blockByte B (8 * j + 5)).toNat * 2 ^ 16 +
      (blockByte B (8 * j + 6)).toNat * 2 ^ 8 + (blockByte B (8 * j + 7)).toNat) ∧
  (∀ (x : Word32) (rest : List Byte), le32 (wordBytesLe x ++ rest) 0 = x) ∧
  (∀ (x : Word32) (rest : List Byte), be32 (wordBytesBe x ++ rest) 0 = x) ∧
  (∀ (x : Word64) (rest : List Byte), be64 (wordBytesBe x ++ rest) 0 = x) ∧
  ∀ (B : List Byte) (j : Nat),
    (wordBytesLe (le32 B j) = [blockByte B (4 * j), blockByte B (4 * j + 1), blockByte B (4 * j + 2),
        blockByte B (4 * j + 3)]) ∧
    (wordBytesBe (be32 B j) = [blockByte B (4 * j), blockByte B (4 * j + 1), blockByte B (4 * j + 2),
        blockByte B (4 * j + 3)]) ∧
    wordBytesBe (be64 B j) = (List.range 8).map fun i => blockByte B (8 * j + i)

/-- 40_pipeline.md R103, R104: byte by byte, the serialization of each algorithm is the bytes of its state words, least
significant first for MD5 and most significant first for the SHA family; it has NW w / 8 bytes; the digest is its first
DL bytes: all of it for MD5, SHA1, SHA256 and SHA512, the bytes of H[0..6] for SHA224 and of H[0..5] for SHA384. -/
def Obligations.TruncationKeepsTheFirstWords : Prop :=
  (∀ (h : Words4) (i j : Nat) (x : Word32), [h.a, h.b, h.c, h.d][i]? = some x → j < 4 →
    (serialize (.md5 h))[4 * i + j]? = some (x.extractLsb' (8 * j) 8)) ∧
  (∀ (h : Words5) (i j : Nat) (x : Word32), [h.a, h.b, h.c, h.d, h.e][i]? = some x → j < 4 →
    (serialize (.sha1 h))[4 * i + j]? = some (x.extractLsb' (24 - 8 * j) 8)) ∧
  (∀ (h : Words8 32) (i j : Nat) (x : Word32), [h.a, h.b, h.c, h.d, h.e, h.f, h.g, h.h][i]? = some x → j < 4 →
    (serialize (.sha224 h))[4 * i + j]? = some (x.extractLsb' (24 - 8 * j) 8)) ∧
  (∀ (h : Words8 32) (i j : Nat) (x : Word32), [h.a, h.b, h.c, h.d, h.e, h.f, h.g, h.h][i]? = some x → j < 4 →
    (serialize (.sha256 h))[4 * i + j]? = some (x.extractLsb' (24 - 8 * j) 8)) ∧
  (∀ (h : Words8 64) (i j : Nat) (x : Word64), [h.a, h.b, h.c, h.d, h.e, h.f, h.g, h.h][i]? = some x → j < 8 →
    (serialize (.sha384 h))[8 * i + j]? = some (x.extractLsb' (56 - 8 * j) 8)) ∧
  (∀ (h : Words8 64) (i j : Nat) (x : Word64), [h.a, h.b, h.c, h.d, h.e, h.f, h.g, h.h][i]? = some x → j < 8 →
    (serialize (.sha512 h))[8 * i + j]? = some (x.extractLsb' (56 - 8 * j) 8)) ∧
  (∀ h : HState, (serialize h).length = stateWords h.alg * wordBits h.alg / 8 ∧
    digestOf h = (serialize h).take (digestBytes h.alg) ∧ (digestOf h).length = digestBytes h.alg) ∧
  (∀ h : Words4, digestOf (.md5 h) = serialize (.md5 h)) ∧
  (∀ h : Words5, digestOf (.sha1 h) = serialize (.sha1 h)) ∧
  (∀ h : Words8 32, digestOf (.sha256 h) = serialize (.sha256 h)) ∧
  (∀ h : Words8 64, digestOf (.sha512 h) = serialize (.sha512 h)) ∧
  (∀ h : Words8 32, digestOf (.sha224 h) =
    wordBytesBe h.a ++ wordBytesBe h.b ++ wordBytesBe h.c ++ wordBytesBe h.d ++ wordBytesBe h.e ++ wordBytesBe h.f ++
      wordBytesBe h.g) ∧
  ∀ h : Words8 64, digestOf (.sha384 h) =
    wordBytesBe h.a ++ wordBytesBe h.b ++ wordBytesBe h.c ++ wordBytesBe h.d ++ wordBytesBe h.e ++ wordBytesBe h.f

/-- 44_sha256.md R190, R191: CH and MAJ at any width, by formula and bit by bit. -/
def Obligations.ChSelectsAndMajVotes : Prop :=
  ∀ (w i : Nat) (x y z : BitVec w),
    ch x y z = (x &&& y) ^^^ (~~~x &&& z) ∧ maj x y z = (x &&& y) ^^^ (x &&& z) ^^^ (y &&& z) ∧
    (i < w → (ch x y z).getLsbD i = if x.getLsbD i then y.getLsbD i else z.getLsbD i) ∧
    (maj x y z).getLsbD i =
      decide (2 ≤ (x.getLsbD i).toNat + (y.getLsbD i).toNat + (z.getLsbD i).toNat)

/-! ## The compression functions -/

/-- 42_md5.md R143, R144, 44_sha256.md R185, 45_sha512.md R215: the step constants, row by row, and the rotation amounts. -/
def Obligations.TablesOfTheRules : Prop :=
  md5K =
    [0xd76aa478#32, 0xe8c7b756#32, 0x242070db#32, 0xc1bdceee#32,
     0xf57c0faf#32, 0x4787c62a#32, 0xa8304613#32, 0xfd469501#32,
     0x698098d8#32, 0x8b44f7af#32, 0xffff5bb1#32, 0x895cd7be#32,
     0x6b901122#32, 0xfd987193#32, 0xa679438e#32, 0x49b40821#32] ++
    [0xf61e2562#32, 0xc040b340#32, 0x265e5a51#32, 0xe9b6c7aa#32,
     0xd62f105d#32, 0x02441453#32, 0xd8a1e681#32, 0xe7d3fbc8#32,
     0x21e1cde6#32, 0xc33707d6#32, 0xf4d50d87#32, 0x455a14ed#32,
     0xa9e3e905#32, 0xfcefa3f8#32, 0x676f02d9#32, 0x8d2a4c8a#32] ++
    [0xfffa3942#32, 0x8771f681#32, 0x6d9d6122#32, 0xfde5380c#32,
     0xa4beea44#32, 0x4bdecfa9#32, 0xf6bb4b60#32, 0xbebfbc70#32,
     0x289b7ec6#32, 0xeaa127fa#32, 0xd4ef3085#32, 0x04881d05#32,
     0xd9d4d039#32, 0xe6db99e5#32, 0x1fa27cf8#32, 0xc4ac5665#32] ++
    [0xf4292244#32, 0x432aff97#32, 0xab9423a7#32, 0xfc93a039#32,
     0x655b59c3#32, 0x8f0ccc92#32, 0xffeff47d#32, 0x85845dd1#32,
     0x6fa87e4f#32, 0xfe2ce6e0#32, 0xa3014314#32, 0x4e0811a1#32,
     0xf7537e82#32, 0xbd3af235#32, 0x2ad7d2bb#32, 0xeb86d391#32] ∧
  k256 =
    [0x428a2f98#32, 0x71374491#32, 0xb5c0fbcf#32, 0xe9b5dba5#32,
     0x3956c25b#32, 0x59f111f1#32, 0x923f82a4#32, 0xab1c5ed5#32,
     0xd807aa98#32, 0x12835b01#32, 0x243185be#32, 0x550c7dc3#32,
     0x72be5d74#32, 0x80deb1fe#32, 0x9bdc06a7#32, 0xc19bf174#32] ++
    [0xe49b69c1#32, 0xefbe4786#32, 0x0fc19dc6#32, 0x240ca1cc#32,
     0x2de92c6f#32, 0x4a7484aa#32, 0x5cb0a9dc#32, 0x76f988da#32,
     0x983e5152#32, 0xa831c66d#32, 0xb00327c8#32, 0xbf597fc7#32,
     0xc6e00bf3#32, 0xd5a79147#32, 0x06ca6351#32, 0x14292967#32] ++
    [0x27b70a85#32, 0x2e1b2138#32, 0x4d2c6dfc#32, 0x53380d13#32,
     0x650a7354#32, 0x766a0abb#32, 0x81c2c92e#32, 0x92722c85#32,
     0xa2bfe8a1#32, 0xa81a664b#32, 0xc24b8b70#32, 0xc76c51a3#32,
     0xd192e819#32, 0xd6990624#32, 0xf40e3585#32, 0x106aa070#32] ++
    [0x19a4c116#32, 0x1e376c08#32, 0x2748774c#32, 0x34b0bcb5#32,
     0x391c0cb3#32, 0x4ed8aa4a#32, 0x5b9cca4f#32, 0x682e6ff3#32,
     0x748f82ee#32, 0x78a5636f#32, 0x84c87814#32, 0x8cc70208#32,
     0x90befffa#32, 0xa4506ceb#32, 0xbef9a3f7#32, 0xc67178f2#32] ∧
  k512 =
    [0x428a2f98d728ae22#64, 0x7137449123ef65cd#64, 0xb5c0fbcfec4d3b2f#64, 0xe9b5dba58189dbbc#64,
     0x3956c25bf348b538#64, 0x59f111f1b605d019#64, 0x923f82a4af194f9b#64, 0xab1c5ed5da6d8118#64,
     0xd807aa98a3030242#64, 0x12835b0145706fbe#64, 0x243185be4ee4b28c#64, 0x550c7dc3d5ffb4e2#64,
     0x72be5d74f27b896f#64, 0x80deb1fe3b1696b1#64, 0x9bdc06a725c71235#64, 0xc19bf174cf692694#64] ++
    [0xe49b69c19ef14ad2#64, 0xefbe4786384f25e3#64, 0x0fc19dc68b8cd5b5#64, 0x240ca1cc77ac9c65#64,
     0x2de92c6f592b0275#64, 0x4a7484aa6ea6e483#64, 0x5cb0a9dcbd41fbd4#64, 0x76f988da831153b5#64,
     0x983e5152ee66dfab#64, 0xa831c66d2db43210#64, 0xb00327c898fb213f#64, 0xbf597fc7beef0ee4#64,
     0xc6e00bf33da88fc2#64, 0xd5a79147930aa725#64, 0x06ca6351e003826f#64, 0x142929670a0e6e70#64] ++
    [0x27b70a8546d22ffc#64, 0x2e1b21385c26c926#64, 0x4d2c6dfc5ac42aed#64, 0x53380d139d95b3df#64,
     0x650a73548baf63de#64, 0x766a0abb3c77b2a8#64, 0x81c2c92e47edaee6#64, 0x92722c851482353b#64,
     0xa2bfe8a14cf10364#64, 0xa81a664bbc423001#64, 0xc24b8b70d0f89791#64, 0xc76c51a30654be30#64,
     0xd192e819d6ef5218#64, 0xd69906245565a910#64, 0xf40e35855771202a#64, 0x106aa07032bbd1b8#64] ++
    [0x19a4c116b8d2d0c8#64, 0x1e376c085141ab53#64, 0x2748774cdf8eeb99#64, 0x34b0bcb5e19b48a8#64,
     0x391c0cb3c5c95a63#64, 0x4ed8aa4ae3418acb#64, 0x5b9cca4f7763e373#64, 0x682e6ff3d6b2b8a3#64,
     0x748f82ee5defb2fc#64, 0x78a5636f43172f60#64, 0x84c87814a1f0ab72#64, 0x8cc702081a6439ec#64,
     0x90befffa23631e28#64, 0xa4506cebde82bde9#64, 0xbef9a3f7b2c67915#64, 0xc67178f2e372532b#64] ++
    [0xca273eceea26619c#64, 0xd186b8c721c0c207#64, 0xeada7dd6cde0eb1e#64, 0xf57d4f7fee6ed178#64,
     0x06f067aa72176fba#64, 0x0a637dc5a2c898a6#64, 0x113f9804bef90dae#64, 0x1b710b35131c471b#64,
     0x28db77f523047d84#64, 0x32caab7b40c72493#64, 0x3c9ebe0a15c9bebc#64, 0x431d67c49c100d4c#64,
     0x4cc5d4becb3e42b6#64, 0x597f299cfc657e2a#64, 0x5fcb6fab3ad6faec#64, 0x6c44198c4a475817#64] ∧
  ∀ i, i < 64 → md5S i =
    if i ≤ 15 then [7, 12, 17, 22].getD (i % 4) 0
    else if i ≤ 31 then [5, 9, 14, 20].getD (i % 4) 0
    else if i ≤ 47 then [4, 11, 16, 23].getD (i % 4) 0
    else [6, 10, 15, 21].getD (i % 4) 0

/-- 42_md5.md R150: MD5Compress as the 64 steps of the rule from H, and the feed-forward. -/
def Obligations.Md5CompressesInSixtyFourSteps : Prop :=
  ∀ (H : Words4) (B : List Byte), ∃ (X a b c d : Nat → Word32),
    (∀ j, j < 16 → X j = le32 B j) ∧ a 0 = H.a ∧ b 0 = H.b ∧ c 0 = H.c ∧ d 0 = H.d ∧
    (∀ i, i < 64 → ∃ f g,
      (i ≤ 15 → f = (b i &&& c i) ||| (~~~(b i) &&& d i) ∧ g = i) ∧
      (16 ≤ i → i ≤ 31 → f = (d i &&& b i) ||| (~~~(d i) &&& c i) ∧ g = (5 * i + 1) % 16) ∧
      (32 ≤ i → i ≤ 47 → f = b i ^^^ c i ^^^ d i ∧ g = (3 * i + 5) % 16) ∧
      (48 ≤ i → f = c i ^^^ (b i ||| ~~~(d i)) ∧ g = (7 * i) % 16) ∧
      a (i + 1) = d i ∧ d (i + 1) = c i ∧ c (i + 1) = b i ∧
      b (i + 1) = b i + rotl (a i + f + md5K.getD i 0#32 + X g) (md5S i)) ∧
    md5Compress H B = { a := H.a + a 64, b := H.b + b 64, c := H.c + c 64, d := H.d + d 64 }

/-- 43_sha1.md R170: SHA1Compress as the schedule and the 80 steps of the rule from H, and the feed-forward. -/
def Obligations.Sha1CompressesInEightySteps : Prop :=
  ∀ (H : Words5) (B : List Byte), ∃ (W a b c d e : Nat → Word32),
    (∀ t, t < 16 → W t = be32 B t) ∧
    (∀ t, 16 ≤ t → t < 80 → W t = rotl (W (t - 3) ^^^ W (t - 8) ^^^ W (t - 14) ^^^ W (t - 16)) 1) ∧
    a 0 = H.a ∧ b 0 = H.b ∧ c 0 = H.c ∧ d 0 = H.d ∧ e 0 = H.e ∧
    (∀ t, t < 80 → ∃ f k,
      (t ≤ 19 → f = (b t &&& c t) ||| (~~~(b t) &&& d t) ∧ k = 0x5a827999#32) ∧
      (20 ≤ t → t ≤ 39 → f = b t ^^^ c t ^^^ d t ∧ k = 0x6ed9eba1#32) ∧
      (40 ≤ t → t ≤ 59 → f = (b t &&& c t) ||| (b t &&& d t) ||| (c t &&& d t) ∧ k = 0x8f1bbcdc#32) ∧
      (60 ≤ t → f = b t ^^^ c t ^^^ d t ∧ k = 0xca62c1d6#32) ∧
      a (t + 1) = rotl (a t) 5 + f + e t + k + W t ∧ b (t + 1) = a t ∧ c (t + 1) = rotl (b t) 30 ∧
      d (t + 1) = c t ∧ e (t + 1) = d t) ∧
    sha1Compress H B =
      { a := H.a + a 80, b := H.b + b 80, c := H.c + c 80, d := H.d + d 80, e := H.e + e 80 }

/-- 44_sha256.md R195, with R186 to R193: SHA256Compress as the schedule and the 64 steps of the rule from H, and the
feed-forward. -/
def Obligations.Sha256CompressesInSixtyFourSteps : Prop :=
  ∀ (H : Words8 32) (B : List Byte), ∃ (W a b c d e f g h : Nat → Word32),
    (∀ t, t < 16 → W t = be32 B t) ∧
    (∀ t, 16 ≤ t → t < 64 →
      W t = (rotr (W (t - 2)) 17 ^^^ rotr (W (t - 2)) 19 ^^^ (W (t - 2) >>> 10)) + W (t - 7) +
        (rotr (W (t - 15)) 7 ^^^ rotr (W (t - 15)) 18 ^^^ (W (t - 15) >>> 3)) + W (t - 16)) ∧
    a 0 = H.a ∧ b 0 = H.b ∧ c 0 = H.c ∧ d 0 = H.d ∧ e 0 = H.e ∧ f 0 = H.f ∧ g 0 = H.g ∧ h 0 = H.h ∧
    (∀ t, t < 64 → ∃ t1 t2,
      t1 = h t + (rotr (e t) 6 ^^^ rotr (e t) 11 ^^^ rotr (e t) 25) + ((e t &&& f t) ^^^ (~~~(e t) &&& g t)) +
        k256.getD t 0#32 + W t ∧
      t2 = (rotr (a t) 2 ^^^ rotr (a t) 13 ^^^ rotr (a t) 22) + ((a t &&& b t) ^^^ (a t &&& c t) ^^^ (b t &&& c t)) ∧
      h (t + 1) = g t ∧ g (t + 1) = f t ∧ f (t + 1) = e t ∧ e (t + 1) = d t + t1 ∧
      d (t + 1) = c t ∧ c (t + 1) = b t ∧ b (t + 1) = a t ∧ a (t + 1) = t1 + t2) ∧
    sha256Compress H B =
      { a := H.a + a 64, b := H.b + b 64, c := H.c + c 64, d := H.d + d 64
        e := H.e + e 64, f := H.f + f 64, g := H.g + g 64, h := H.h + h 64 }

/-- 45_sha512.md R225, with R216 to R222: SHA512Compress as the schedule and the 80 steps of the rule from H, and the
feed-forward. -/
def Obligations.Sha512CompressesInEightySteps : Prop :=
  ∀ (H : Words8 64) (B : List Byte), ∃ (W a b c d e f g h : Nat → Word64),
    (∀ t, t < 16 → W t = be64 B t) ∧
    (∀ t, 16 ≤ t → t < 80 →
      W t = (rotr (W (t - 2)) 19 ^^^ rotr (W (t - 2)) 61 ^^^ (W (t - 2) >>> 6)) + W (t - 7) +
        (rotr (W (t - 15)) 1 ^^^ rotr (W (t - 15)) 8 ^^^ (W (t - 15) >>> 7)) + W (t - 16)) ∧
    a 0 = H.a ∧ b 0 = H.b ∧ c 0 = H.c ∧ d 0 = H.d ∧ e 0 = H.e ∧ f 0 = H.f ∧ g 0 = H.g ∧ h 0 = H.h ∧
    (∀ t, t < 80 → ∃ t1 t2,
      t1 = h t + (rotr (e t) 14 ^^^ rotr (e t) 18 ^^^ rotr (e t) 41) + ((e t &&& f t) ^^^ (~~~(e t) &&& g t)) +
        k512.getD t 0#64 + W t ∧
      t2 = (rotr (a t) 28 ^^^ rotr (a t) 34 ^^^ rotr (a t) 39) + ((a t &&& b t) ^^^ (a t &&& c t) ^^^ (b t &&& c t)) ∧
      h (t + 1) = g t ∧ g (t + 1) = f t ∧ f (t + 1) = e t ∧ e (t + 1) = d t + t1 ∧
      d (t + 1) = c t ∧ c (t + 1) = b t ∧ b (t + 1) = a t ∧ a (t + 1) = t1 + t2) ∧
    sha512Compress H B =
      { a := H.a + a 80, b := H.b + b 80, c := H.c + c 80, d := H.d + d 80
        e := H.e + e 80, f := H.f + f 80, g := H.g + g 80, h := H.h + h 80 }
end

