-- ==== Sys2Proof/Laws/State.lean ====
section
/-! SUPPORT. One lemma per field per update of the state and of an instance, each true by rfl, so that no later proof
unfolds a record update. -/

namespace Sys2Proof.Machine

/-! ## State.setEngine -/

@[simp] theorem State.setEngine_plat (s : State) (i : Nat) (e : Engine) :
    (s.setEngine i e).plat = s.plat := rfl
@[simp] theorem State.setEngine_mem (s : State) (i : Nat) (e : Engine) :
    (s.setEngine i e).mem = s.mem := rfl
@[simp] theorem State.setEngine_engines (s : State) (i : Nat) (e : Engine) :
    (s.setEngine i e).engines = s.engines.set i e := rfl
@[simp] theorem State.setEngine_sel (s : State) (i : Nat) (e : Engine) :
    (s.setEngine i e).sel = s.sel := rfl
@[simp] theorem State.setEngine_hosts (s : State) (i : Nat) (e : Engine) :
    (s.setEngine i e).hosts = s.hosts := rfl
@[simp] theorem State.setEngine_resets (s : State) (i : Nat) (e : Engine) :
    (s.setEngine i e).resets = s.resets := rfl
@[simp] theorem State.setEngine_sched (s : State) (i : Nat) (e : Engine) :
    (s.setEngine i e).sched = s.sched := rfl
@[simp] theorem State.setEngine_recorded (s : State) (i : Nat) (e : Engine) :
    (s.setEngine i e).recorded = s.recorded := rfl
@[simp] theorem State.setEngine_trace (s : State) (i : Nat) (e : Engine) :
    (s.setEngine i e).trace = s.trace := rfl
@[simp] theorem State.setEngine_draws (s : State) (i : Nat) (e : Engine) :
    (s.setEngine i e).draws = s.draws := rfl

/-! ## State.log -/

@[simp] theorem State.log_plat (s : State) (t : List TraceEntry) :
    (s.log t).plat = s.plat := rfl
@[simp] theorem State.log_mem (s : State) (t : List TraceEntry) :
    (s.log t).mem = s.mem := rfl
@[simp] theorem State.log_engines (s : State) (t : List TraceEntry) :
    (s.log t).engines = s.engines := rfl
@[simp] theorem State.log_sel (s : State) (t : List TraceEntry) :
    (s.log t).sel = s.sel := rfl
@[simp] theorem State.log_hosts (s : State) (t : List TraceEntry) :
    (s.log t).hosts = s.hosts := rfl
@[simp] theorem State.log_resets (s : State) (t : List TraceEntry) :
    (s.log t).resets = s.resets := rfl
@[simp] theorem State.log_sched (s : State) (t : List TraceEntry) :
    (s.log t).sched = s.sched := rfl
@[simp] theorem State.log_recorded (s : State) (t : List TraceEntry) :
    (s.log t).recorded = s.recorded := rfl
@[simp] theorem State.log_trace (s : State) (t : List TraceEntry) :
    (s.log t).trace = s.trace ++ t := rfl
@[simp] theorem State.log_draws (s : State) (t : List TraceEntry) :
    (s.log t).draws = s.draws := rfl

/-! ## State.raise -/

@[simp] theorem State.raise_plat (s : State) (i : Nat) (e : Engine) (r : Result) (info : Info) :
    (s.raise i e r info).plat = s.plat := rfl
@[simp] theorem State.raise_mem (s : State) (i : Nat) (e : Engine) (r : Result) (info : Info) :
    (s.raise i e r info).mem = s.mem := rfl
@[simp] theorem State.raise_engines (s : State) (i : Nat) (e : Engine) (r : Result) (info : Info) :
    (s.raise i e r info).engines = s.engines.set i (e.raise r) := rfl
@[simp] theorem State.raise_sel (s : State) (i : Nat) (e : Engine) (r : Result) (info : Info) :
    (s.raise i e r info).sel = s.sel := rfl
@[simp] theorem State.raise_hosts (s : State) (i : Nat) (e : Engine) (r : Result) (info : Info) :
    (s.raise i e r info).hosts = s.hosts := rfl
@[simp] theorem State.raise_resets (s : State) (i : Nat) (e : Engine) (r : Result) (info : Info) :
    (s.raise i e r info).resets = s.resets := rfl
@[simp] theorem State.raise_sched (s : State) (i : Nat) (e : Engine) (r : Result) (info : Info) :
    (s.raise i e r info).sched = s.sched := rfl
@[simp] theorem State.raise_recorded (s : State) (i : Nat) (e : Engine) (r : Result) (info : Info) :
    (s.raise i e r info).recorded = s.recorded := rfl
@[simp] theorem State.raise_trace (s : State) (i : Nat) (e : Engine) (r : Result) (info : Info) :
    (s.raise i e r info).trace = s.trace ++ [.raised i r info] := rfl
@[simp] theorem State.raise_draws (s : State) (i : Nat) (e : Engine) (r : Result) (info : Info) :
    (s.raise i e r info).draws = s.draws := rfl

/-! ## State.record -/

@[simp] theorem State.record_plat (s : State) (v : Word32) :
    (s.record v).plat = s.plat := rfl
@[simp] theorem State.record_mem (s : State) (v : Word32) :
    (s.record v).mem = s.mem := rfl
@[simp] theorem State.record_engines (s : State) (v : Word32) :
    (s.record v).engines = s.engines := rfl
@[simp] theorem State.record_sel (s : State) (v : Word32) :
    (s.record v).sel = s.sel := rfl
@[simp] theorem State.record_hosts (s : State) (v : Word32) :
    (s.record v).hosts = s.hosts := rfl
@[simp] theorem State.record_resets (s : State) (v : Word32) :
    (s.record v).resets = s.resets := rfl
@[simp] theorem State.record_sched (s : State) (v : Word32) :
    (s.record v).sched = s.sched := rfl
@[simp] theorem State.record_recorded (s : State) (v : Word32) :
    (s.record v).recorded = s.recorded ++ [v] := rfl
@[simp] theorem State.record_trace (s : State) (v : Word32) :
    (s.record v).trace = s.trace := rfl
@[simp] theorem State.record_draws (s : State) (v : Word32) :
    (s.record v).draws = s.draws := rfl

/-! ## State.hostWrite -/

@[simp] theorem State.hostWrite_plat (s : State) (a : Nat) (b : Byte) :
    (s.hostWrite a b).plat = s.plat := rfl
@[simp] theorem State.hostWrite_mem (s : State) (a : Nat) (b : Byte) :
    (s.hostWrite a b).mem = Memory.write s.mem a b := rfl
@[simp] theorem State.hostWrite_engines (s : State) (a : Nat) (b : Byte) :
    (s.hostWrite a b).engines = s.engines.map fun e => e.noteWrite a := rfl
@[simp] theorem State.hostWrite_sel (s : State) (a : Nat) (b : Byte) :
    (s.hostWrite a b).sel = s.sel := rfl
@[simp] theorem State.hostWrite_hosts (s : State) (a : Nat) (b : Byte) :
    (s.hostWrite a b).hosts = s.hosts := rfl
@[simp] theorem State.hostWrite_resets (s : State) (a : Nat) (b : Byte) :
    (s.hostWrite a b).resets = s.resets := rfl
@[simp] theorem State.hostWrite_sched (s : State) (a : Nat) (b : Byte) :
    (s.hostWrite a b).sched = s.sched := rfl
@[simp] theorem State.hostWrite_recorded (s : State) (a : Nat) (b : Byte) :
    (s.hostWrite a b).recorded = s.recorded := rfl
@[simp] theorem State.hostWrite_trace (s : State) (a : Nat) (b : Byte) :
    (s.hostWrite a b).trace = s.trace := rfl
@[simp] theorem State.hostWrite_draws (s : State) (a : Nat) (b : Byte) :
    (s.hostWrite a b).draws = s.draws := rfl

/-! ## State.taken: only the lists of what is still to do change -/

@[simp] theorem State.taken_plat (s : State) : s.taken.plat = s.plat := by
  unfold State.taken; split <;> rfl
@[simp] theorem State.taken_mem (s : State) : s.taken.mem = s.mem := by
  unfold State.taken; split <;> rfl
@[simp] theorem State.taken_engines (s : State) : s.taken.engines = s.engines := by
  unfold State.taken; split <;> rfl
@[simp] theorem State.taken_sel (s : State) : s.taken.sel = s.sel := by
  unfold State.taken; split <;> rfl
@[simp] theorem State.taken_recorded (s : State) : s.taken.recorded = s.recorded := by
  unfold State.taken; split <;> rfl
@[simp] theorem State.taken_trace (s : State) : s.taken.trace = s.trace := by
  unfold State.taken; split <;> rfl
@[simp] theorem State.taken_draws (s : State) : s.taken.draws = s.draws := by
  unfold State.taken; split <;> rfl
@[simp] theorem State.taken_sched (s : State) : s.taken.sched = s.sched.tail := by
  unfold State.taken; split <;> rfl

/-- An engine's turn takes nothing off the other agents' lists. -/
theorem State.taken_engine {s : State} {i : Nat} (h : s.nextTurn = .engine i) :
    s.taken = { s with sched := s.sched.tail } := by
  simp [State.taken, h]

theorem State.taken_host {s : State} {h : Nat} (ht : s.nextTurn = .host h) :
    s.taken = { s with sched := s.sched.tail, hosts := s.hosts.set h (s.program h).tail } := by
  simp [State.taken, ht]

theorem State.taken_platform {s : State} (h : s.nextTurn = .platform) :
    s.taken = { s with sched := s.sched.tail, resets := s.resets.tail } := by
  simp [State.taken, h]

/-! ## Engine.raise -/

@[simp] theorem Engine.raise_regBase (e : Engine) (r : Result) :
    (e.raise r).regBase = e.regBase := rfl
@[simp] theorem Engine.raise_phase (e : Engine) (r : Result) :
    (e.raise r).phase = .done := rfl
@[simp] theorem Engine.raise_cmd (e : Engine) (r : Result) :
    (e.raise r).cmd = e.cmd := rfl
@[simp] theorem Engine.raise_msgBase (e : Engine) (r : Result) :
    (e.raise r).msgBase = e.msgBase := rfl
@[simp] theorem Engine.raise_msgLen (e : Engine) (r : Result) :
    (e.raise r).msgLen = e.msgLen := rfl
@[simp] theorem Engine.raise_result (e : Engine) (r : Result) :
    (e.raise r).result = r := rfl
@[simp] theorem Engine.raise_dlen (e : Engine) (r : Result) :
    (e.raise r).dlen = 0x00#8 := rfl
@[simp] theorem Engine.raise_digest (e : Engine) (r : Result) :
    (e.raise r).digest = zeroDigest := rfl
@[simp] theorem Engine.raise_race (e : Engine) (r : Result) :
    (e.raise r).race = e.race := rfl

/-! ## Engine.beginCommand -/

@[simp] theorem Engine.beginCommand_regBase (e : Engine) (v : Word32) :
    (e.beginCommand v).regBase = e.regBase := rfl
@[simp] theorem Engine.beginCommand_phase (e : Engine) (v : Word32) :
    (e.beginCommand v).phase = e.phase := rfl
@[simp] theorem Engine.beginCommand_cmd (e : Engine) (v : Word32) :
    (e.beginCommand v).cmd = v := rfl
@[simp] theorem Engine.beginCommand_msgBase (e : Engine) (v : Word32) :
    (e.beginCommand v).msgBase = e.msgBase := rfl
@[simp] theorem Engine.beginCommand_msgLen (e : Engine) (v : Word32) :
    (e.beginCommand v).msgLen = e.msgLen := rfl
@[simp] theorem Engine.beginCommand_result (e : Engine) (v : Word32) :
    (e.beginCommand v).result = e.result := rfl
@[simp] theorem Engine.beginCommand_dlen (e : Engine) (v : Word32) :
    (e.beginCommand v).dlen = 0x00#8 := rfl
@[simp] theorem Engine.beginCommand_digest (e : Engine) (v : Word32) :
    (e.beginCommand v).digest = zeroDigest := rfl
@[simp] theorem Engine.beginCommand_race (e : Engine) (v : Word32) :
    (e.beginCommand v).race = false := rfl

/-! ## Engine.enterBusy -/

@[simp] theorem Engine.enterBusy_regBase (e : Engine) (alg : Alg) :
    (e.enterBusy alg).regBase = e.regBase := rfl
@[simp] theorem Engine.enterBusy_phase (e : Engine) (alg : Alg) :
    (e.enterBusy alg).phase = .busy (freshCtx alg e.msgBase.toNat e.msgLen.toNat) := rfl
@[simp] theorem Engine.enterBusy_cmd (e : Engine) (alg : Alg) :
    (e.enterBusy alg).cmd = e.cmd := rfl
@[simp] theorem Engine.enterBusy_msgBase (e : Engine) (alg : Alg) :
    (e.enterBusy alg).msgBase = e.msgBase := rfl
@[simp] theorem Engine.enterBusy_msgLen (e : Engine) (alg : Alg) :
    (e.enterBusy alg).msgLen = e.msgLen := rfl
@[simp] theorem Engine.enterBusy_result (e : Engine) (alg : Alg) :
    (e.enterBusy alg).result = .ok := rfl
@[simp] theorem Engine.enterBusy_dlen (e : Engine) (alg : Alg) :
    (e.enterBusy alg).dlen = e.dlen := rfl
@[simp] theorem Engine.enterBusy_digest (e : Engine) (alg : Alg) :
    (e.enterBusy alg).digest = e.digest := rfl
@[simp] theorem Engine.enterBusy_race (e : Engine) (alg : Alg) :
    (e.enterBusy alg).race = e.race := rfl

/-! ## Engine.resetEvent -/

@[simp] theorem Engine.resetEvent_regBase (e : Engine) :
    (e.resetEvent).regBase = e.regBase := rfl
@[simp] theorem Engine.resetEvent_phase (e : Engine) :
    (e.resetEvent).phase = .idle := rfl
@[simp] theorem Engine.resetEvent_cmd (e : Engine) :
    (e.resetEvent).cmd = 0x00000000#32 := rfl
@[simp] theorem Engine.resetEvent_msgBase (e : Engine) :
    (e.resetEvent).msgBase = 0x0000000000000000#64 := rfl
@[simp] theorem Engine.resetEvent_msgLen (e : Engine) :
    (e.resetEvent).msgLen = 0x0000000000000000#64 := rfl
@[simp] theorem Engine.resetEvent_result (e : Engine) :
    (e.resetEvent).result = .ok := rfl
@[simp] theorem Engine.resetEvent_dlen (e : Engine) :
    (e.resetEvent).dlen = 0x00#8 := rfl
@[simp] theorem Engine.resetEvent_digest (e : Engine) :
    (e.resetEvent).digest = zeroDigest := rfl
@[simp] theorem Engine.resetEvent_race (e : Engine) :
    (e.resetEvent).race = false := rfl

/-! ## Ctx.advance -/

@[simp] theorem Ctx.advance_base (c : Ctx) (B : List Byte) :
    (c.advance B).base = c.base := rfl
@[simp] theorem Ctx.advance_len (c : Ctx) (B : List Byte) :
    (c.advance B).len = c.len := rfl
@[simp] theorem Ctx.advance_nblk (c : Ctx) (B : List Byte) :
    (c.advance B).nblk = c.nblk := rfl
@[simp] theorem Ctx.advance_blk (c : Ctx) (B : List Byte) :
    (c.advance B).blk = c.blk + 1 := rfl
@[simp] theorem Ctx.advance_h (c : Ctx) (B : List Byte) :
    (c.advance B).h = compress c.h B := rfl

/-! ## State.afterDraw: only the count of free values changes -/

@[simp] theorem State.afterDraw_plat (s : State) : s.afterDraw.plat = s.plat := by
  unfold State.afterDraw; split <;> rfl
@[simp] theorem State.afterDraw_mem (s : State) : s.afterDraw.mem = s.mem := by
  unfold State.afterDraw; split <;> rfl
@[simp] theorem State.afterDraw_engines (s : State) : s.afterDraw.engines = s.engines := by
  unfold State.afterDraw; split <;> rfl
@[simp] theorem State.afterDraw_sel (s : State) : s.afterDraw.sel = s.sel := by
  unfold State.afterDraw; split <;> rfl
@[simp] theorem State.afterDraw_hosts (s : State) : s.afterDraw.hosts = s.hosts := by
  unfold State.afterDraw; split <;> rfl
@[simp] theorem State.afterDraw_resets (s : State) : s.afterDraw.resets = s.resets := by
  unfold State.afterDraw; split <;> rfl
@[simp] theorem State.afterDraw_sched (s : State) : s.afterDraw.sched = s.sched := by
  unfold State.afterDraw; split <;> rfl
@[simp] theorem State.afterDraw_recorded (s : State) : s.afterDraw.recorded = s.recorded := by
  unfold State.afterDraw; split <;> rfl
@[simp] theorem State.afterDraw_trace (s : State) : s.afterDraw.trace = s.trace := by
  unfold State.afterDraw; split <;> rfl
theorem State.afterDraw_draws (s : State) :
    s.afterDraw.draws = if s.plat.allocMayFail then s.draws + 1 else s.draws := by
  unfold State.afterDraw; split <;> rfl

/-- Where no allocation may fail, no draw is taken. -/
theorem State.afterDraw_of_not (s : State) (h : s.plat.allocMayFail = false) : s.afterDraw = s := by
  simp [State.afterDraw, h]

/-- Where no allocation may fail, none fails. -/
theorem drawAllocFail_of_not (s : State) (h : s.plat.allocMayFail = false) : drawAllocFail s = false := by
  simp [drawAllocFail, h]

/-! ## Engine.noteWrite: only `race` changes -/

@[simp] theorem Engine.noteWrite_regBase (e : Engine) (a : Nat) : (e.noteWrite a).regBase = e.regBase := by
  unfold Engine.noteWrite; split <;> rfl
@[simp] theorem Engine.noteWrite_phase (e : Engine) (a : Nat) : (e.noteWrite a).phase = e.phase := by
  unfold Engine.noteWrite; split <;> rfl
@[simp] theorem Engine.noteWrite_cmd (e : Engine) (a : Nat) : (e.noteWrite a).cmd = e.cmd := by
  unfold Engine.noteWrite; split <;> rfl
@[simp] theorem Engine.noteWrite_msgBase (e : Engine) (a : Nat) : (e.noteWrite a).msgBase = e.msgBase := by
  unfold Engine.noteWrite; split <;> rfl
@[simp] theorem Engine.noteWrite_msgLen (e : Engine) (a : Nat) : (e.noteWrite a).msgLen = e.msgLen := by
  unfold Engine.noteWrite; split <;> rfl
@[simp] theorem Engine.noteWrite_result (e : Engine) (a : Nat) : (e.noteWrite a).result = e.result := by
  unfold Engine.noteWrite; split <;> rfl
@[simp] theorem Engine.noteWrite_dlen (e : Engine) (a : Nat) : (e.noteWrite a).dlen = e.dlen := by
  unfold Engine.noteWrite; split <;> rfl
@[simp] theorem Engine.noteWrite_digest (e : Engine) (a : Nat) : (e.noteWrite a).digest = e.digest := by
  unfold Engine.noteWrite; split <;> rfl
theorem Engine.noteWrite_race (e : Engine) (a : Nat) :
    (e.noteWrite a).race = (e.messageHolds a || e.race) := by
  unfold Engine.noteWrite; split <;> simp_all

/-! ## Engine.writeReg: only MSG_BASE and MSG_LEN change -/

@[simp] theorem Engine.writeReg_regBase (e : Engine) (r : Reg) (v : Word32) : (e.writeReg r v).regBase = e.regBase := by
  unfold Engine.writeReg; split
  · rfl
  · cases r <;> rfl
@[simp] theorem Engine.writeReg_phase (e : Engine) (r : Reg) (v : Word32) : (e.writeReg r v).phase = e.phase := by
  unfold Engine.writeReg; split
  · rfl
  · cases r <;> rfl
@[simp] theorem Engine.writeReg_cmd (e : Engine) (r : Reg) (v : Word32) : (e.writeReg r v).cmd = e.cmd := by
  unfold Engine.writeReg; split
  · rfl
  · cases r <;> rfl
@[simp] theorem Engine.writeReg_result (e : Engine) (r : Reg) (v : Word32) : (e.writeReg r v).result = e.result := by
  unfold Engine.writeReg; split
  · rfl
  · cases r <;> rfl
@[simp] theorem Engine.writeReg_dlen (e : Engine) (r : Reg) (v : Word32) : (e.writeReg r v).dlen = e.dlen := by
  unfold Engine.writeReg; split
  · rfl
  · cases r <;> rfl
@[simp] theorem Engine.writeReg_digest (e : Engine) (r : Reg) (v : Word32) : (e.writeReg r v).digest = e.digest := by
  unfold Engine.writeReg; split
  · rfl
  · cases r <;> rfl
@[simp] theorem Engine.writeReg_race (e : Engine) (r : Reg) (v : Word32) : (e.writeReg r v).race = e.race := by
  unfold Engine.writeReg; split
  · rfl
  · cases r <;> rfl

theorem Engine.writeReg_of_busy (e : Engine) (r : Reg) (v : Word32) (h : e.isBusy = true) : e.writeReg r v = e := by
  simp [Engine.writeReg, h]

/-! ## The phase -/

/-- An instance with a context is BUSY with it. -/
theorem Engine.ctx_eq_some (e : Engine) (c : Ctx) : e.ctx = some c ↔ e.phase = .busy c := by
  unfold Engine.ctx; split <;> simp_all

/-- An instance is BUSY where and only where it has a context. -/
theorem Engine.isBusy_iff (e : Engine) : e.isBusy = true ↔ ∃ c, e.phase = .busy c := by
  unfold Engine.isBusy; split <;> simp_all

theorem Engine.isBusy_of_phase (e : Engine) (c : Ctx) (h : e.phase = .busy c) : e.isBusy = true :=
  e.isBusy_iff.mpr ⟨c, h⟩

theorem Engine.ctx_of_not_busy (e : Engine) (h : e.isBusy = false) : e.ctx = none := by
  unfold Engine.isBusy at h; unfold Engine.ctx; split at h <;> simp_all

@[simp] theorem Engine.raise_isBusy (e : Engine) (r : Result) : (e.raise r).isBusy = false := rfl

@[simp] theorem Engine.enterBusy_isBusy (e : Engine) (alg : Alg) : (e.enterBusy alg).isBusy = true := rfl

@[simp] theorem Engine.resetEvent_isBusy (e : Engine) : e.resetEvent.isBusy = false := rfl

@[simp] theorem zeroDigest_get (k : Fin 64) : zeroDigest[k] = 0x00#8 := by
  simp [zeroDigest]

end Sys2Proof.Machine
end

