-- ==== Sys2Proof/Laws/Engines.lean ====
section
/-! SUPPORT. Looking up and replacing an instance: replacing one leaves the others alone (10_state.md R38); what an access
names (R20, R41). -/

namespace Sys2Proof.Machine

theorem State.engine?_congr {s t : State} (h : t.engines = s.engines) (i : Nat) : t.engine? i = s.engine? i := by
  simp [State.engine?, h]

@[simp] theorem State.engine?_log (s : State) (l : List TraceEntry) (i : Nat) : (s.log l).engine? i = s.engine? i := rfl

@[simp] theorem State.engine?_record (s : State) (v : Word32) (i : Nat) : (s.record v).engine? i = s.engine? i := rfl

@[simp] theorem State.engine?_taken (s : State) (i : Nat) : s.taken.engine? i = s.engine? i := by
  simp [State.engine?]

@[simp] theorem State.target_taken (s : State) (addr width : Nat) : s.taken.target addr width = s.target addr width := by
  simp [State.target]

@[simp] theorem State.engine?_afterDraw (s : State) (i : Nat) : s.afterDraw.engine? i = s.engine? i := by
  simp [State.engine?]

@[simp] theorem State.engine?_hostWrite (s : State) (a : Nat) (b : Byte) (i : Nat) :
    (s.hostWrite a b).engine? i = (s.engine? i).map fun e => e.noteWrite a := by
  simp [State.engine?]

/-- The replaced instance. -/
theorem State.engine?_setEngine_self {s : State} {i : Nat} {e : Engine} (e' : Engine) (h : s.engine? i = some e) :
    (s.setEngine i e').engine? i = some e' := by
  unfold State.engine? at h ⊢
  obtain ⟨hlt, _⟩ := List.getElem?_eq_some_iff.mp h
  simp [hlt]

/-- Every other instance is left alone. -/
@[simp] theorem State.engine?_setEngine_ne {s : State} {i j : Nat} (e' : Engine) (h : i ≠ j) :
    (s.setEngine i e').engine? j = s.engine? j := by
  simp [State.engine?, List.getElem?_set_ne h]

theorem State.engine?_raise_self {s : State} {i : Nat} {e : Engine} (e' : Engine) (r : Result) (info : Info)
    (h : s.engine? i = some e) : (s.raise i e' r info).engine? i = some (e'.raise r) := by
  simpa [State.raise] using State.engine?_setEngine_self (e'.raise r) h

@[simp] theorem State.engine?_raise_ne {s : State} {i j : Nat} (e' : Engine) (r : Result) (info : Info) (h : i ≠ j) :
    (s.raise i e' r info).engine? j = s.engine? j := by
  simp [State.raise, h]

/-- The number of instances never changes by a replacement. -/
@[simp] theorem State.setEngine_length (s : State) (i : Nat) (e : Engine) :
    (s.setEngine i e).engines.length = s.engines.length := by
  simp

/-- An instance that is there is on the list. -/
theorem State.mem_of_engine? {s : State} {i : Nat} {e : Engine} (h : s.engine? i = some e) : e ∈ s.engines :=
  List.mem_of_getElem? h

/-- Every instance of a state with one replaced is the new one or was there before. -/
theorem State.mem_setEngine {s : State} {i : Nat} {e x : Engine} (h : x ∈ (s.setEngine i e).engines) :
    x = e ∨ x ∈ s.engines := by
  rcases List.mem_or_eq_of_mem_set h with h | h
  · exact .inr h
  · exact .inl h

/-- What an address names: an instance whose block holds it, and the offset in the block (R20). -/
theorem locateFrom_some {es : List Engine} {i addr j off : Nat} (h : locateFrom i es addr = some (j, off)) :
    i ≤ j ∧ ∃ e, es[j - i]? = some e ∧ e.regBase ≤ addr ∧ addr < e.regBase + regBlockBytes ∧ off = addr - e.regBase := by
  induction es generalizing i with
  | nil => simp [locateFrom] at h
  | cons e rest ih =>
    unfold locateFrom at h
    split at h
    · rename_i hb
      obtain ⟨rfl, rfl⟩ : i = j ∧ addr - e.regBase = off := by simpa using h
      exact ⟨le_rfl, e, by simp, hb.1, hb.2, rfl⟩
    · obtain ⟨hle, e', he', hrest⟩ := ih h
      refine ⟨by omega, e', ?_, hrest⟩
      rw [show j - i = (j - (i + 1)) + 1 by omega]
      simpa using he'

/-- A register access that is not refused is an aligned 32-bit access to a register of an instance (R41). -/
theorem State.target_some {s : State} {addr width i : Nat} {r : Reg} (h : s.target addr width = some (i, r)) :
    ∃ e, s.engine? i = some e ∧ e.regBase ≤ addr ∧ regAccessOk (addr - e.regBase) width = true
      ∧ r = Reg.ofOffset (addr - e.regBase) := by
  unfold State.target at h
  split at h
  · cases h
  · rename_i j off hloc
    split at h
    · rename_i hok
      obtain ⟨rfl, rfl⟩ : j = i ∧ Reg.ofOffset off = r := by simpa using h
      obtain ⟨-, e, he, hle, -, rfl⟩ := locateFrom_some hloc
      exact ⟨e, by simpa [State.engine?] using he, hle, hok, rfl⟩
    · cases h

/-- The default order names a BUSY instance, or none is BUSY. -/
theorem firstBusyFrom_some {es : List Engine} {i j : Nat} (h : firstBusyFrom i es = some j) :
    i ≤ j ∧ ∃ e, es[j - i]? = some e ∧ e.isBusy = true := by
  induction es generalizing i with
  | nil => simp [firstBusyFrom] at h
  | cons e rest ih =>
    unfold firstBusyFrom at h
    split at h
    · rename_i hb
      obtain rfl : i = j := by simpa using h
      exact ⟨le_rfl, e, by simp, hb⟩
    · obtain ⟨hle, e', he', hb⟩ := ih h
      refine ⟨by omega, e', ?_, hb⟩
      rw [show j - i = (j - (i + 1)) + 1 by omega]
      simpa using he'

theorem firstBusyFrom_none {es : List Engine} {i : Nat} (h : firstBusyFrom i es = none) :
    ∀ e ∈ es, e.isBusy = false := by
  induction es generalizing i with
  | nil => simp
  | cons e rest ih =>
    unfold firstBusyFrom at h
    split at h
    · cases h
    · rename_i hb
      intro x hx
      rcases List.mem_cons.mp hx with rfl | hx
      · simpa using hb
      · exact ih h x hx

end Sys2Proof.Machine
end

