-- ==== Sys2Proof/Laws/Memory.lean ====
section
/-! SUPPORT. Memory: every operation keeps the canonical form, a read after a write to the same address gives the value
written, and a write leaves every other address alone (20_memory.md R50). -/

namespace Sys2Proof.Machine

/-- Below the first listed address every byte is unlisted. -/
theorem Memory.read_of_lt {m : Memory} {lo a : Nat} (h : Memory.wfFrom lo m = true) (ha : a < lo) :
    Memory.read m a = Config.unlistedByte := by
  cases m with
  | nil => rfl
  | cons cell rest =>
    obtain ⟨k, b⟩ := cell
    simp only [Memory.wfFrom, Bool.and_eq_true, decide_eq_true_eq] at h
    simp only [Memory.read, if_pos (show a < k by omega)]

/-- The canonical form from an address upward holds from any lower one. -/
theorem Memory.wfFrom_mono {m : Memory} {lo lo' : Nat} (h : Memory.wfFrom lo m = true) (hle : lo' ≤ lo) :
    Memory.wfFrom lo' m = true := by
  cases m with
  | nil => rfl
  | cons cell rest =>
    obtain ⟨k, b⟩ := cell
    simp only [Memory.wfFrom, Bool.and_eq_true, decide_eq_true_eq] at h ⊢
    exact ⟨⟨by omega, h.1.2⟩, h.2⟩

theorem Memory.wfFrom_write {m : Memory} {lo a : Nat} (b : Byte) (h : Memory.wfFrom lo m = true) (ha : lo ≤ a) :
    Memory.wfFrom lo (Memory.write m a b) = true := by
  induction m generalizing lo with
  | nil =>
    unfold Memory.write
    split
    · rfl
    · simp_all [Memory.wfFrom]
  | cons cell rest ih =>
    obtain ⟨k, c⟩ := cell
    have h' := h
    simp only [Memory.wfFrom, Bool.and_eq_true, decide_eq_true_eq, bne_iff_ne, ne_eq] at h'
    obtain ⟨⟨hk, hc⟩, hr⟩ := h'
    unfold Memory.write
    split
    · split
      · exact h
      · simp_all [Memory.wfFrom]
    · split
      · split
        · exact Memory.wfFrom_mono hr (by omega)
        · simp_all [Memory.wfFrom]
      · simp only [Memory.wfFrom, Bool.and_eq_true, decide_eq_true_eq, bne_iff_ne, ne_eq]
        exact ⟨⟨hk, hc⟩, ih hr (by omega)⟩

/-- A write keeps the canonical form. -/
theorem Memory.wf_write {m : Memory} (a : Nat) (b : Byte) (h : Memory.wf m = true) :
    Memory.wf (Memory.write m a b) = true :=
  Memory.wfFrom_write b h (Nat.zero_le a)

theorem Memory.read_write_from {m : Memory} {lo : Nat} (a a' : Nat) (b : Byte) (h : Memory.wfFrom lo m = true) :
    Memory.read (Memory.write m a b) a' = if a' = a then b else Memory.read m a' := by
  induction m generalizing lo with
  | nil =>
    unfold Memory.write
    split <;> simp only [Memory.read] <;> split <;> simp_all
    omega
  | cons cell rest ih =>
    obtain ⟨k, c⟩ := cell
    have h' := h
    simp only [Memory.wfFrom, Bool.and_eq_true, decide_eq_true_eq, bne_iff_ne, ne_eq] at h'
    obtain ⟨_, hr⟩ := h'
    have low : ∀ x, x < k + 1 → Memory.read rest x = Config.unlistedByte := fun x hx => Memory.read_of_lt hr hx
    unfold Memory.write
    by_cases h1 : a < k
    · simp only [h1, if_true]
      by_cases hb : b = Config.unlistedByte <;> simp only [hb, if_true, if_false, Memory.read]
      · by_cases ha : a' = a <;> simp [ha, h1]
      · by_cases ha : a' = a
        · simp [ha]
        · by_cases h2 : a' < a
          · simp [ha, h2, show a' < k by omega]
          · simp [ha, h2]
    · by_cases h2 : a = k
      · subst h2
        simp only [Nat.lt_irrefl, if_false, if_true]
        by_cases hb : b = Config.unlistedByte <;> simp only [hb, if_true, if_false, Memory.read]
        · by_cases ha : a' = a
          · simp [ha, low a (by omega)]
          · by_cases h3 : a' < a <;> simp [ha, h3]
            exact low a' (by omega)
        · by_cases ha : a' = a <;> simp [ha]
      · simp only [h1, h2, if_false, Memory.read, ih hr]
        by_cases ha : a' = a
        · simp [ha, h1, h2]
        · simp [ha]

/-- A read after a write: the value written at its address, what was there before at every other. -/
theorem Memory.read_write {m : Memory} (a a' : Nat) (b : Byte) (h : Memory.wf m = true) :
    Memory.read (Memory.write m a b) a' = if a' = a then b else Memory.read m a' :=
  Memory.read_write_from a a' b h

/-- A write lists no address but its own beside those listed before. -/
theorem Memory.mem_write {m : Memory} {a : Nat} {b : Byte} {cell : Host.Cell} (h : cell ∈ Memory.write m a b) :
    cell = (a, b) ∨ cell ∈ m := by
  induction m with
  | nil =>
    unfold Memory.write at h
    split at h <;> simp_all
  | cons c rest ih =>
    obtain ⟨k, x⟩ := c
    unfold Memory.write at h
    split at h
    · split at h <;> simp_all
    · split at h
      · split at h <;> simp_all
        rcases h with h | h <;> simp_all
      · rcases List.mem_cons.mp h with h | h
        · simp [h]
        · rcases ih h with h | h <;> simp [h]

/-- The memory of the machine after reset is in canonical form. -/
theorem State.reset_mem_wf : Memory.wf State.reset.mem = true := rfl

/-- A message is the same in two memories that agree on its bytes. -/
theorem messageAt_congr {m m' : Memory} {base len : Nat}
    (h : ∀ k, k < len → Memory.read m' (base + k) = Memory.read m (base + k)) :
    messageAt m' base len = messageAt m base len := by
  unfold messageAt
  exact List.map_congr_left fun k hk => h k (List.mem_range.mp hk)

@[simp] theorem messageAt_length (m : Memory) (base len : Nat) : (messageAt m base len).length = len := by
  simp [messageAt]

/-- A read that the memory does not refuse returns the byte it holds. -/
theorem memRead_of_readable {p : Platform} {m : Memory} {a : Nat} (h : readable p a = true) :
    memRead p m a = some (Memory.read m a) := by
  simp [memRead, h]

theorem memRead_of_refused {p : Platform} {m : Memory} {a : Nat} (h : readable p a = false) :
    memRead p m a = none := by
  simp [memRead, h]

end Sys2Proof.Machine
end

