-- ==== Sys2Proof/Laws/PerInstr.lean ====
section
/-! SUPPORT. The family CommandWord: the fields of each command's word (30_encoding.md R70 to R72). -/

namespace Sys2Proof.Laws.CommandWord

/-- The command word of `i` has RSV = 0 and OP = HASH, and its ALG field names `i`. -/
def Statement (i : Instr) : Prop :=
  i.wellFormed = true ∧ cmdRsv (encode i) = 0 ∧ cmdOp (encode i) = opHash ∧ decodeAlg (cmdAlg (encode i)) = .ok i

theorem hashMd5 : Statement .hashMd5 := ⟨rfl, rfl, rfl, rfl⟩

theorem hashSha1 : Statement .hashSha1 := ⟨rfl, rfl, rfl, rfl⟩

theorem hashSha224 : Statement .hashSha224 := ⟨rfl, rfl, rfl, rfl⟩

theorem hashSha256 : Statement .hashSha256 := ⟨rfl, rfl, rfl, rfl⟩

theorem hashSha384 : Statement .hashSha384 := ⟨rfl, rfl, rfl, rfl⟩

theorem hashSha512 : Statement .hashSha512 := ⟨rfl, rfl, rfl, rfl⟩

end Sys2Proof.Laws.CommandWord
end

