-- ==== Sys2Proof/Laws/Sequencer.lean ====
section
/-! SUPPORT. What the sequencer can do, said once: acceptance (40_pipeline.md R90), the block step (R95, R96), the finish
step (R97), and the facts about the algorithms that every proof over them needs. -/

namespace Sys2Proof.Machine

/-! ## The algorithms -/

@[simp] theorem iv_alg (a : Alg) : (iv a).alg = a := by cases a <;> rfl

@[simp] theorem compress_alg (h : HState) (B : List Byte) : (compress h B).alg = h.alg := by
  cases h <;> simp only [compress, HState.alg]

@[simp] theorem hashBlocks_alg (a : Alg) (M : List Byte) (n : Nat) : (hashBlocks a M n).alg = a := by
  induction n with
  | zero => simp [hashBlocks]
  | succ n ih => simp [hashBlocks, ih]

@[simp] theorem advance_alg (c : Ctx) (B : List Byte) : (c.advance B).alg = c.alg := by simp [Ctx.alg]

@[simp] theorem freshCtx_alg (a : Alg) (base len : Nat) : (freshCtx a base len).alg = a := by
  simp [Ctx.alg, freshCtx]

theorem blockBytes_pos (a : Alg) : 0 < blockBytes a := by cases a <;> decide

theorem digestBytes_le (a : Alg) : digestBytes a ≤ 64 := by cases a <;> decide

theorem digestBytes_ofNat (a : Alg) : (BitVec.ofNat 8 (digestBytes a)).toNat = digestBytes a := by
  cases a <;> rfl

@[simp] theorem wordBytesLe_length {w : Nat} (x : BitVec w) : (wordBytesLe x).length = w / 8 := by
  simp [wordBytesLe]

@[simp] theorem wordBytesBe_length {w : Nat} (x : BitVec w) : (wordBytesBe x).length = w / 8 := by
  simp [wordBytesBe]

/-- The serialization is at least as long as the digest. -/
theorem digestBytes_le_serialize (h : HState) : digestBytes h.alg ≤ (serialize h).length := by
  cases h <;> simp [serialize, HState.alg, digestBytes, md5Serialize, sha1Serialize, sha256Serialize, sha512Serialize]

@[simp] theorem digestOf_length (h : HState) : (digestOf h).length = digestBytes h.alg := by
  simpa [digestOf] using digestBytes_le_serialize h

@[simp] theorem racedDigest_length (n : Nat) (a : Alg) : (racedDigest n a).length = digestBytes a := by
  simp [racedDigest]

/-- The finish step writes DL(alg) bytes. -/
@[simp] theorem finishBytes_length (s : State) (e : Engine) (c : Ctx) :
    (finishBytes s e c).length = digestBytes c.alg := by
  unfold finishBytes; split <;> simp [Ctx.alg]

theorem writeDigest_get (D : Vector Byte 64) (S : List Byte) (k : Fin 64) :
    (writeDigest D S)[k] = if k.val < S.length then S.getD k.val 0x00#8 else D[k] := by
  simp [writeDigest]

/-! ## Acceptance -/

/-- Every command is the write of its word with its algorithm. -/
theorem exec_eq (i : Instr) (s : State) : exec i s = writeCmd (encode i) (some (algOf i)) s := by
  cases i <;> rfl

/-- A CMD write that decodes runs its command. -/
theorem runCommand_of_ok {v : Word32} {i : Instr} (h : decode v = .ok i) (s : State) : runCommand v s = exec i s := by
  simp [runCommand, h]

/-- A CMD write that does not decode is accepted as undefined. -/
theorem runCommand_of_error {v : Word32} {u : Undefined} (h : decode v = .error u) (s : State) :
    runCommand v s = writeCmd v none s := by
  simp [runCommand, h]

/-- A CMD write in BUSY changes nothing (70_reset_and_hazards.md R281). -/
theorem writeCmd_busy {s : State} {e : Engine} (v : Word32) (alg : Option Alg) (he : s.engine? s.sel = some e)
    (hb : e.isBusy = true) : writeCmd v alg s = .next s := by
  simp [writeCmd, he, hb]

/-- A CMD write outside BUSY is acceptance (R90). -/
theorem writeCmd_free {s : State} {e : Engine} (v : Word32) (alg : Option Alg) (he : s.engine? s.sel = some e)
    (hb : e.isBusy = false) : writeCmd v alg s = accept s s.sel e v alg := by
  simp [writeCmd, he, hb]

/-- What acceptance can answer (R90, 60_exceptions.md R246). -/
theorem accept_cases {s t : State} {i : Nat} {e : Engine} {v : Word32} {alg : Option Alg}
    (h : accept s i e v alg = .next t) :
    (alg = none ∧ t = s.raise i (e.beginCommand v) .unsupportedAlgorithm .nothing) ∨
    ∃ a, alg = some a ∧
      ((drawAllocFail s = true ∧ t = s.afterDraw.raise i (e.beginCommand v) .allocationFailure .nothing) ∨
       (drawAllocFail s = false ∧ memBytes s.plat < e.msgBase.toNat + e.msgLen.toNat ∧
          t = s.afterDraw.raise i (e.beginCommand v) .accessFault .range) ∨
       (drawAllocFail s = false ∧ e.msgBase.toNat + e.msgLen.toNat ≤ memBytes s.plat ∧
          meetsSideEffect s.plat e.msgBase.toNat e.msgLen.toNat = false ∧
          t = s.afterDraw.setEngine i ((e.beginCommand v).enterBusy a))) := by
  unfold accept at h
  cases alg with
  | none => exact .inl ⟨rfl, by simpa using h.symm⟩
  | some a =>
    refine .inr ⟨a, rfl, ?_⟩
    simp only [Engine.baseOperand, Engine.lenOperand, Engine.beginCommand_msgBase, Engine.beginCommand_msgLen] at h
    cases hd : drawAllocFail s with
    | true => exact .inl ⟨rfl, by simpa [hd] using h.symm⟩
    | false =>
      simp only [hd, Bool.false_eq_true, if_false] at h
      by_cases hr : memBytes s.plat < e.msgBase.toNat + e.msgLen.toNat
      · exact .inr (.inl ⟨rfl, hr, by simpa [hr] using h.symm⟩)
      · simp only [hr, if_false] at h
        cases hse : meetsSideEffect s.plat e.msgBase.toNat e.msgLen.toNat with
        | true => simp [hse] at h
        | false => exact .inr (.inr ⟨rfl, by omega, rfl, by simpa [hse] using h.symm⟩)

/-- What a CMD write can answer: nothing changed in BUSY, acceptance outside it. -/
theorem writeCmd_cases {s t : State} {v : Word32} {alg : Option Alg} (h : writeCmd v alg s = .next t) :
    ∃ e, s.engine? s.sel = some e ∧
      ((e.isBusy = true ∧ t = s) ∨ (e.isBusy = false ∧ accept s s.sel e v alg = .next t)) := by
  unfold writeCmd at h
  split at h
  · cases h
  · rename_i e he
    refine ⟨e, he, ?_⟩
    split at h
    · exact .inl ⟨‹_›, by simpa using h.symm⟩
    · rename_i hb
      exact .inr ⟨by simpa using hb, h⟩

/-! ## Engine steps -/

/-- What an engine's step can do (R110). -/
theorem engineStep_cases (s : State) (i : Nat) :
    (engineStep s i = s ∧ ∀ e, s.engine? i = some e → e.isBusy = false) ∨
    ∃ e c, s.engine? i = some e ∧ e.phase = .busy c ∧
      ((c.blk < c.nblk ∧ engineStep s i = blockStep s i e c) ∨
       (c.nblk ≤ c.blk ∧ engineStep s i = finishStep s i e c)) := by
  cases he : s.engine? i with
  | none => exact .inl ⟨by simp [engineStep, he], fun e h => by cases h⟩
  | some e =>
    cases hb : e.isBusy with
    | false =>
      refine .inl ⟨by simp [engineStep, he, e.ctx_of_not_busy hb], fun e' h => ?_⟩
      obtain rfl : e = e' := by simpa using h
      exact hb
    | true =>
      obtain ⟨c, hp⟩ := e.isBusy_iff.mp hb
      have hc := (e.ctx_eq_some c).mpr hp
      refine .inr ⟨e, c, rfl, hp, ?_⟩
      by_cases hlt : c.blk < c.nblk
      · exact .inl ⟨hlt, by simp [engineStep, he, hc, hlt]⟩
      · exact .inr ⟨by omega, by simp [engineStep, he, hc, hlt]⟩

theorem engineStep_block {s : State} {i : Nat} {e : Engine} {c : Ctx} (he : s.engine? i = some e)
    (hp : e.phase = .busy c) (hlt : c.blk < c.nblk) : engineStep s i = blockStep s i e c := by
  simp [engineStep, he, (e.ctx_eq_some c).mpr hp, hlt]

theorem engineStep_finish {s : State} {i : Nat} {e : Engine} {c : Ctx} (he : s.engine? i = some e)
    (hp : e.phase = .busy c) (hle : c.nblk ≤ c.blk) : engineStep s i = finishStep s i e c := by
  simp [engineStep, he, (e.ctx_eq_some c).mpr hp, Nat.not_lt.mpr hle]

/-- Byte `k` of the padded message as the block step makes it (R95): from memory inside the message, generated after it. -/
def stepByte (m : Memory) (alg : Alg) (base len k : Nat) : Byte :=
  if k < len then Memory.read m (base + k) else padByte alg len k

/-- Where no message byte of the span is refused, the block step gets every byte of it and reads the message bytes in
rising order (R95, 20_memory.md R53). -/
theorem gather_of_readable {p : Platform} {m : Memory} {alg : Alg} {base len k n : Nat}
    (h : ∀ j, k ≤ j → j < k + n → j < len → readable p (base + j) = true) :
    gather p m alg base len k n =
      { bytes := (List.range' k n).map (stepByte m alg base len)
        reads := (List.range' k (min n (len - k))).map (base + ·)
        refusedAt := none } := by
  induction n generalizing k with
  | zero => simp [gather]
  | succ n ih =>
    have ih' := ih (k := k + 1) fun j h1 h2 h3 => h j (by omega) (by omega) h3
    unfold gather
    by_cases hk : k < len
    · have hr := memRead_of_readable (m := m) (h k (le_refl k) (by omega) hk)
      have hm : min (n + 1) (len - k) = min n (len - (k + 1)) + 1 := by omega
      simp [hk, hr, ih', hm, List.range'_succ, stepByte]
    · have h0 : len - k = 0 := by omega
      have h1 : len - (k + 1) = 0 := by omega
      simp [hk, ih', h0, h1, List.range'_succ, stepByte]

/-- A refused read is of a message byte of the span; every message byte before it was read (R96). -/
theorem gather_refused {p : Platform} {m : Memory} {alg : Alg} {base len k n a : Nat}
    (h : (gather p m alg base len k n).refusedAt = some a) :
    ∃ j, k ≤ j ∧ j < k + n ∧ j < len ∧ a = base + j ∧ readable p (base + j) = false
      ∧ (∀ j', k ≤ j' → j' < j → readable p (base + j') = true)
      ∧ (gather p m alg base len k n).reads = (List.range' k (j - k)).map (base + ·) := by
  induction n generalizing k with
  | zero => simp [gather] at h
  | succ n ih =>
    unfold gather at h ⊢
    by_cases hk : k < len
    · cases hr : readable p (base + k) with
      | false =>
        simp only [hk, if_true, memRead_of_refused hr] at h ⊢
        obtain rfl : base + k = a := by simpa using h
        exact ⟨k, le_refl k, by omega, hk, rfl, hr, fun j' h1 h2 => by omega, by simp⟩
      | true =>
        simp only [hk, if_true, memRead_of_readable hr] at h ⊢
        obtain ⟨j, h1, h2, h3, h4, h5, h6, h7⟩ := ih h
        refine ⟨j, by omega, by omega, h3, h4, h5, fun j' hj1 hj2 => ?_, ?_⟩
        · by_cases hj : j' = k
          · subst hj; exact hr
          · exact h6 j' (by omega) hj2
        · rw [h7, show j - k = (j - (k + 1)) + 1 by omega, List.range'_succ]
          simp
    · simp only [hk, if_false] at h ⊢
      obtain ⟨j, h1, h2, h3, -⟩ := ih h
      omega

/-- The block step's two ends (R95, R96). -/
theorem blockStep_cases (s : State) (i : Nat) (e : Engine) (c : Ctx) :
    (∃ a, (gatherBlock s.plat s.mem c).refusedAt = some a ∧
      blockStep s i e c = (s.log ((gatherBlock s.plat s.mem c).reads.map (TraceEntry.read i))).raise i e .accessFault
        (.addr a)) ∨
    ((gatherBlock s.plat s.mem c).refusedAt = none ∧
      blockStep s i e c = (s.log ((gatherBlock s.plat s.mem c).reads.map (TraceEntry.read i))).setEngine i
        { e with phase := .busy (c.advance (gatherBlock s.plat s.mem c).bytes) }) := by
  unfold blockStep
  cases h : (gatherBlock s.plat s.mem c).refusedAt with
  | some a => exact .inl ⟨a, rfl, by simp [h]⟩
  | none => exact .inr ⟨rfl, by simp [h]⟩

/-- What the finish step leaves in its instance (R97). -/
theorem finishStep_eq (s : State) (i : Nat) (e : Engine) (c : Ctx) :
    finishStep s i e c =
      { s with
        draws := if e.race then s.draws + 1 else s.draws
        engines := s.engines.set i
          { e with
            digest := writeDigest e.digest (finishBytes s e c)
            dlen := BitVec.ofNat 8 (digestBytes c.alg)
            result := .ok
            phase := .done } } := by
  unfold finishStep; split <;> rfl

end Sys2Proof.Machine
end

