-- ==== Sys2Proof/Laws/Step.lean ====
section
/-! SUPPORT. What a step can do, said once: the turn of an engine, an idle turn, one event of a host, or a reset, and what
each event can answer. -/

namespace Sys2Proof.Machine

theorem step_engine {s : State} {i : Nat} (h : s.nextTurn = .engine i) : step s = .next (engineStep s.taken i) := by
  simp [step, machineStep, h]

/-- A host step comes next where it is a host's turn and its list is not empty. -/
theorem nextEvent_some {s : State} {ev : Event} (h : s.nextEvent = some ev) :
    ∃ k, s.nextTurn = .host k ∧ (s.program k).head? = some ev := by
  unfold State.nextEvent at h
  split at h
  · exact ⟨_, ‹_›, h⟩
  · cases h
  · cases h

theorem nextReset_some {s : State} {i : Nat} (h : s.nextReset = some i) :
    s.nextTurn = .platform ∧ s.resets.head? = some i := by
  unfold State.nextReset at h
  split at h
  · cases h
  · exact ⟨‹_›, h⟩
  · cases h

/-- A step that performs an event is that event, by the host whose turn it is, on the state with the event taken off. -/
theorem step_performs {s : State} {ev : Event} (h : s.Performs ev) :
    ∃ k, s.nextTurn = .host k ∧ (s.program k).head? = some ev ∧ step s = perform k ev s.taken := by
  obtain ⟨k, ht, hev⟩ := nextEvent_some h
  exact ⟨k, ht, hev, by simp [step, machineStep, ht, hev]⟩

/-- A reset step is the reset event on the state with it taken off. -/
theorem step_resets {s : State} {i : Nat} (h : s.Resets i) : step s = performReset i s.taken := by
  obtain ⟨ht, hr⟩ := nextReset_some h
  simp [step, machineStep, ht, hr]

/-- What a step that answers a next state did: an engine's step, a host's step, a reset, or nothing. -/
theorem step_cases {s t : State} (h : step s = .next t) :
    (∃ i, s.nextTurn = .engine i ∧ t = engineStep s.taken i) ∨
    t = s.taken ∨
    (∃ k ev, s.nextTurn = .host k ∧ s.Performs ev ∧ perform k ev s.taken = .next t) ∨
    ∃ i, s.Resets i ∧ performReset i s.taken = .next t := by
  unfold step machineStep at h
  split at h
  · rename_i k ht
    split at h
    · exact .inr (.inl (by simpa using h.symm))
    · rename_i ev hev
      exact .inr (.inr (.inl ⟨k, ev, ht, by simp [State.Performs, State.nextEvent, ht, hev], h⟩))
  · rename_i ht
    split at h
    · exact .inr (.inl (by simpa using h.symm))
    · rename_i i hi
      exact .inr (.inr (.inr ⟨i, by simp [State.Resets, State.nextReset, ht, hi], h⟩))
  · rename_i i ht
    exact .inl ⟨i, ht, by simpa using h.symm⟩

/-- Putting back what a host's turn took off gives the lists as they were. -/
theorem hosts_putBack {s : State} {k : Nat} {ev : Event} (ht : s.nextTurn = .host k)
    (hev : (s.program k).head? = some ev) : s.taken.hosts.set k (ev :: s.taken.program k) = s.hosts := by
  obtain ⟨rest, hp⟩ : ∃ rest, s.program k = ev :: rest := by
    cases hs : s.program k with
    | nil => simp [hs] at hev
    | cons x rest => exact ⟨rest, by simpa [hs] using hev⟩
  have hk : s.hosts[k]? = some (ev :: rest) := by
    unfold State.program at hp
    cases hg : s.hosts[k]? with
    | none => simp [List.getD_eq_getElem?_getD, hg] at hp
    | some l => simpa [List.getD_eq_getElem?_getD, hg] using hp
  obtain ⟨hlt, hget⟩ := List.getElem?_eq_some_iff.mp hk
  have htk : s.taken.program k = rest := by
    simp [State.taken_host ht, State.program, hlt, hget]
  rw [htk, State.taken_host ht]
  apply List.ext_getElem?
  intro j
  by_cases hj : k = j
  · subst hj; simp [hlt, hget]
  · simp [List.getElem?_set_ne hj]

/-- A register write that answers a next state: a CMD write, or a write of another register. -/
theorem performRegWrite_cases {s t : State} {addr width : Nat} {v : Word32}
    (h : performRegWrite addr width v s = .next t) :
    ∃ i r e, s.target addr width = some (i, r) ∧ s.engine? i = some e ∧
      ((r = .cmd ∧ runCommand v { s with sel := i } = .next t) ∨
       (r ≠ .cmd ∧ t = s.setEngine i (e.writeReg r v))) := by
  unfold performRegWrite at h
  cases htgt : s.target addr width with
  | none => simp [htgt] at h
  | some ir =>
    obtain ⟨i, r⟩ := ir
    obtain ⟨e, he, -⟩ := State.target_some htgt
    refine ⟨i, r, e, rfl, he, ?_⟩
    by_cases hr : r = .cmd
    · exact .inl ⟨hr, by simpa [htgt, hr] using h⟩
    · exact .inr ⟨hr, by simpa [htgt, hr, he] using h.symm⟩

/-- A register read that answers a next state records the register's value. -/
theorem performRegRead_cases {s t : State} {addr width : Nat} (h : performRegRead addr width s = .next t) :
    ∃ i r e, s.target addr width = some (i, r) ∧ s.engine? i = some e ∧ t = s.record (e.readReg r) := by
  unfold performRegRead at h
  cases htgt : s.target addr width with
  | none => simp [htgt] at h
  | some ir =>
    obtain ⟨i, r⟩ := ir
    obtain ⟨e, he, -⟩ := State.target_some htgt
    exact ⟨i, r, e, rfl, he, by simpa [htgt, he] using h.symm⟩

/-- POLL records STATUS, and stays where it reads BUSY. -/
theorem performPoll_cases {s t : State} {h i : Nat} (hs : performPoll h i s = .next t) :
    ∃ e, s.engine? i = some e ∧
      ((e.isBusy = true ∧ t = { s.record e.status with hosts := s.hosts.set h (.poll i :: s.program h) }) ∨
       (e.isBusy = false ∧ t = s.record e.status)) := by
  unfold performPoll at hs
  cases he : s.engine? i with
  | none => simp [he] at hs
  | some e =>
    refine ⟨e, rfl, ?_⟩
    cases hb : e.isBusy with
    | true => exact .inl ⟨rfl, by simpa [he, hb] using hs.symm⟩
    | false => exact .inr ⟨rfl, by simpa [he, hb] using hs.symm⟩

theorem performMemWrite_cases {s t : State} {a : Nat} {b : Byte} (h : performMemWrite a b s = .next t) :
    a < memBytes s.plat ∧ t = s.hostWrite a b := by
  unfold performMemWrite at h
  by_cases ha : a < memBytes s.plat
  · exact ⟨ha, by simpa [ha] using h.symm⟩
  · simp [ha] at h

theorem performMemRead_cases {s t : State} {a : Nat} (h : performMemRead a s = .next t) :
    a < memBytes s.plat ∧ t = s.record ((Memory.read s.mem a).setWidth 32) := by
  unfold performMemRead at h
  by_cases ha : a < memBytes s.plat
  · exact ⟨ha, by simpa [ha] using h.symm⟩
  · simp [ha] at h

theorem performReset_cases {s t : State} {i : Nat} (h : performReset i s = .next t) :
    ∃ e, s.engine? i = some e ∧ t = s.setEngine i e.resetEvent := by
  unfold performReset at h
  cases he : s.engine? i with
  | none => simp [he] at h
  | some e => exact ⟨e, rfl, by simpa [he] using h.symm⟩

end Sys2Proof.Machine
end

