-- ==== Sys2Proof/Tests/Slice0.lean ====
section
/-! SUPPORT. The model's own tests: ill-formed terms that the checks refuse, command words written out from the opcode
map, worked examples of the spec, and for every statement with hypotheses a state that meets them. -/

namespace Sys2Proof.Tests

open Sys2Proof Sys2Proof.Machine

/-! ## Small states -/

/-- A platform of 256 bytes of memory, the byte at 0x40 refused, four bytes from 0x80 with a read side effect. -/
def small : Platform :=
  { addrW := 8, allocMayFail := false, refused := [{ base := 0x40, size := 1 }]
    sideEffect := [{ base := 0x80, size := 4 }] }

/-- The bytes of "abc" at 0x10. -/
def abcMem : Memory := [(0x10, 0x61#8), (0x11, 0x62#8), (0x12, 0x63#8)]

def abc : List Byte := [0x61#8, 0x62#8, 0x63#8]

/-- An instance at REG_BASE 0 in IDLE, its operands written. -/
def ready (base len : Nat) : Engine :=
  { Engine.reset 0 with msgBase := BitVec.ofNat 64 base, msgLen := BitVec.ofNat 64 len }

/-- HASH.MD5 just accepted. -/
def busy (base len : Nat) : Engine :=
  { ready base len with cmd := 0x00000011#32, phase := .busy (freshCtx .md5 base len) }

/-- The context of HASH.MD5 over "abc" with its one block done. -/
def lastCtx : Ctx := { base := 0x10, len := 3, nblk := 1, blk := 1, h := hashBlocks .md5 abc 1 }

/-- HASH.MD5 over "abc" with its one block done. -/
def last : Engine := { busy 0x10 3 with phase := .busy lastCtx }

/-- HASH.MD5 finished, the digest bytes all 0x5a. -/
def finished : Engine :=
  { ready 0x10 3 with
    cmd := 0x00000011#32, phase := .done, dlen := 16#8
    digest := Vector.ofFn fun k => if k.val < 16 then 0x5a#8 else 0x00#8 }

/-- A state in which it is the turn of the one host, whose next event is the head of `evs`. -/
def host (p : Platform) (es : List Engine) (evs : List Event) : State :=
  { State.resetOn p [] abcMem with engines := es, hosts := [evs], sched := [.host 0] }

/-- A state in which it is the turn of the platform, which resets instance 0. -/
def resets (p : Platform) (es : List Engine) : State :=
  { State.resetOn p [] abcMem with engines := es, resets := [0], sched := [.platform] }

/-- A state in which the next `n` turns are those of engine 0. -/
def turns (p : Platform) (es : List Engine) (n : Nat) : State :=
  { State.resetOn p [] abcMem with engines := es, sched := List.replicate n (.engine 0) }

/-! ## Ill-formed terms are refused (10_state.md R41, 00_scope.md R6). No command is ill-formed: it has no operand. -/

theorem test_wf_width : regAccessOk 0x00 1 = false := by decide

theorem test_wf_aligned : regAccessOk 0x02 4 = false := by decide

theorem test_wf_inside : regAccessOk 0x80 4 = false ∧ regAccessOk 0x7C 4 = true := by decide

theorem test_wf_no_address : ({ small with addrW := 0 } : Platform).wellFormed = false := by decide

theorem test_wf_wide_address : ({ small with addrW := 65 } : Platform).wellFormed = false := by decide

theorem test_wf_no_instance : small.legal [] = false ∧ small.legal [0, 0x80] = true := by decide

theorem test_wf_instr : Instr.hashMd5.wellFormed = true := by decide

/-! ## Command words, bit by bit: RSV (24 bits), OP (4 bits), ALG (4 bits) (30_encoding.md R70 to R73) -/

theorem test_decode_md5 : decode 0b00000000000000000000000000010001#32 = .ok .hashMd5 := by decide

theorem test_decode_sha1 : decode 0b00000000000000000000000000010010#32 = .ok .hashSha1 := by decide

theorem test_decode_sha224 : decode 0b00000000000000000000000000010011#32 = .ok .hashSha224 := by decide

theorem test_decode_sha256 : decode 0b00000000000000000000000000010100#32 = .ok .hashSha256 := by decide

theorem test_decode_sha384 : decode 0b00000000000000000000000000010101#32 = .ok .hashSha384 := by decide

theorem test_decode_sha512 : decode 0b00000000000000000000000000010110#32 = .ok .hashSha512 := by decide

theorem test_decode_reserved : decode 0b10000000000000000000000000010001#32 = .error .reservedBits := by decide

theorem test_decode_op : decode 0b00000000000000000000000000100001#32 = .error .operation := by decide

theorem test_decode_alg : decode 0b00000000000000000000000000010000#32 = .error .algorithm := by decide

theorem test_decode_table :
    decodeTableWord 32 0x11 = some .hashMd5 ∧ decodeTableWord 8 0x16 = some .hashSha512 ∧
      decodeTableWord 32 0 = none := by
  decide

/-! ## The first step after reset runs the word (log 6). The initial values are those of R142, R162, R183, R182, R213, R212;
the empty message has one block (41_padding.md R128). -/

/-- The context that one step on the word leaves in instance 0. -/
def firstCtx (w : Nat) : Option Ctx :=
  match step (State.reset.withFetchWord 32 w) with
  | .next t => (t.engine? 0).bind Engine.ctx
  | .refused _ => none

theorem test_step_md5 :
    firstCtx 0x11 = some
      ⟨0, 0, 1, 0, .md5 ⟨0x67452301#32, 0xefcdab89#32, 0x98badcfe#32, 0x10325476#32⟩⟩ := by decide

theorem test_step_sha1 :
    firstCtx 0x12 = some
      ⟨0, 0, 1, 0, .sha1 ⟨0x67452301#32, 0xefcdab89#32, 0x98badcfe#32, 0x10325476#32,
        0xc3d2e1f0#32⟩⟩ := by decide

theorem test_step_sha224 :
    firstCtx 0x13 = some
      ⟨0, 0, 1, 0, .sha224 ⟨0xc1059ed8#32, 0x367cd507#32, 0x3070dd17#32, 0xf70e5939#32,
        0xffc00b31#32, 0x68581511#32, 0x64f98fa7#32, 0xbefa4fa4#32⟩⟩ := by decide

theorem test_step_sha256 :
    firstCtx 0x14 = some
      ⟨0, 0, 1, 0, .sha256 ⟨0x6a09e667#32, 0xbb67ae85#32, 0x3c6ef372#32, 0xa54ff53a#32,
        0x510e527f#32, 0x9b05688c#32, 0x1f83d9ab#32, 0x5be0cd19#32⟩⟩ := by decide

theorem test_step_sha384 :
    firstCtx 0x15 = some
      ⟨0, 0, 1, 0, .sha384 ⟨0xcbbb9d5dc1059ed8#64, 0x629a292a367cd507#64, 0x9159015a3070dd17#64, 0x152fecd8f70e5939#64,
        0x67332667ffc00b31#64, 0x8eb44a8768581511#64, 0xdb0c2e0d64f98fa7#64, 0x47b5481dbefa4fa4#64⟩⟩ := by decide

theorem test_step_sha512 :
    firstCtx 0x16 = some
      ⟨0, 0, 1, 0, .sha512 ⟨0x6a09e667f3bcc908#64, 0xbb67ae8584caa73b#64, 0x3c6ef372fe94f82b#64, 0xa54ff53a5f1d36f1#64,
        0x510e527fade682d1#64, 0x9b05688c2b3e6c1f#64, 0x1f83d9abfb41bd6b#64, 0x5be0cd19137e2179#64⟩⟩ := by decide

/-! ## Digests of "abc" (95_test_vectors.md V10, V3, V12, V4, V13, V5), as one number, the first byte highest -/

def asNumber (l : List Byte) : Nat := l.foldl (fun n b => n * 256 + b.toNat) 0

theorem test_digest_md5 :
    asNumber (digestFn .md5 abc) =
      0x900150983cd24fb0d6963f7d28e17f72 := by
  decide +kernel

theorem test_digest_sha1 :
    asNumber (digestFn .sha1 abc) =
      0xa9993e364706816aba3e25717850c26c9cd0d89d := by
  decide +kernel

theorem test_digest_sha224 :
    asNumber (digestFn .sha224 abc) =
      0x23097d223405d8228642a477bda255b32aadbce4bda0b3f7e36c9da7 := by
  decide +kernel

theorem test_digest_sha256 :
    asNumber (digestFn .sha256 abc) =
      0xba7816bf8f01cfea414140de5dae2223b00361a396177a9cb410ff61f20015ad := by
  decide +kernel

theorem test_digest_sha384 :
    asNumber (digestFn .sha384 abc) =
      0xcb00753f45a35e8bb5a03d699ac65007272c32ab0eded1631a8b605a43ff5bed8086072ba1e7cc2358baeca134c825a7 := by
  decide +kernel

theorem test_digest_sha512 :
    asNumber (digestFn .sha512 abc) =
      0xddaf35a193617abacc417349ae20413112e6fa4e89a97ea20a9eeee64b55d39a2192992a274fc1a836ba3c23a3feebbd454d4423643ce80e2a9ac94fa54ca49f := by
  decide +kernel

/-! ## Worked examples of the rules -/

/-- The example of 40_pipeline.md R90. -/
theorem test_accept_example :
    exec .hashMd5 (host small [ready 0x10 3] []) =
      .next ((host small [ready 0x10 3] []).setEngine 0
        { ready 0x10 3 with
          cmd := 0x00000011#32
          phase := .busy { base := 0x10, len := 3, nblk := 1, blk := 0, h := .md5 ivMd5 } }) := rfl

/-- The example of 60_exceptions.md R246: UnsupportedAlgorithm before the range check. -/
theorem test_priority_example :
    (match writeCmd 0x00000017#32 none (host .default [ready 1 (2 ^ 64 - 1)] []) with
      | .next t => t.engines.map Engine.result
      | .refused _ => []) = [.unsupportedAlgorithm] := by decide

/-- The examples of R100, R101, R102, R103. -/
theorem test_load_store_examples :
    le32 [0x61#8, 0x62#8, 0x63#8, 0x80#8] 0 = 0x80636261#32 ∧ be32 [0x61#8, 0x62#8, 0x63#8, 0x80#8] 0 = 0x61626380#32 ∧
    be64 [0x61#8, 0x62#8, 0x63#8, 0x80#8, 0#8, 0#8, 0#8, 0#8] 0 = 0x6162638000000000#64 ∧
    wordBytesLe 0x98500190#32 = [0x90#8, 0x01#8, 0x50#8, 0x98#8] := by decide

/-- The block counts of 41_padding.md section 3, where a 64-byte block has room and where it has not. -/
theorem test_block_count_examples :
    blockCount .md5 55 = 1 ∧ blockCount .md5 56 = 2 ∧ blockCount .sha512 111 = 1 ∧ blockCount .sha512 112 = 2 := by decide

/-- The examples of 44_sha256.md R186 to R191. -/
theorem test_sha256_function_examples :
    sig0W32 1#32 = 0x02004000#32 ∧ sig1W32 1#32 = 0x0000a000#32 ∧ ep0W32 1#32 = 0x40080400#32 ∧
    ep1W32 1#32 = 0x04200080#32 ∧ ch 0xf0f0f0f0#32 0xcccccccc#32 0xaaaaaaaa#32 = 0xcacacaca#32 ∧
    maj 0xf0f0f0f0#32 0xcccccccc#32 0xaaaaaaaa#32 = 0xe8e8e8e8#32 := by decide

/-- The examples of 45_sha512.md R216 to R219. -/
theorem test_sha512_function_examples :
    sig0W64 1#64 = 0x8100000000000000#64 ∧ sig1W64 1#64 = 0x0000200000000008#64 ∧
    ep0W64 1#64 = 0x0000001042000000#64 ∧ ep1W64 1#64 = 0x0004400000800000#64 := by decide

/-! ## For every statement with hypotheses, a state and operands that meet them all -/

/-- The first of one instance: no other instance's block holds any address. -/
theorem no_other_block (p : Platform) (e : Engine) (evs : List Event) (a : Nat) :
    ∀ j x, j ≠ 0 → (host p [e] evs).engine? j = some x → ¬(x.regBase ≤ a ∧ a < x.regBase + 0x80) := by
  intro j x hj hx
  obtain ⟨n, rfl⟩ := Nat.exists_eq_succ_of_ne_zero hj
  exact absurd hx (by simp [host, State.engine?])

theorem test_hyps_decoder_inside :
    (0x00000016#32).extractLsb' 8 24 = 0#24 ∧ (0x00000016#32).extractLsb' 4 4 = 0x1#4 ∧
      1 ≤ ((0x00000016#32).extractLsb' 0 4).toNat ∧ ((0x00000016#32).extractLsb' 0 4).toNat ≤ 6 := by decide

theorem test_hyps_decoder_outside :
    ¬((0x00000017#32).extractLsb' 8 24 = 0#24 ∧ (0x00000017#32).extractLsb' 4 4 = 0x1#4 ∧
      1 ≤ ((0x00000017#32).extractLsb' 0 4).toNat ∧ ((0x00000017#32).extractLsb' 0 4).toNat ≤ 6) := by decide

theorem test_hyps_step_runs :
    (State.reset.withFetchWord 32 0x11).Performs (.regWrite 0 4 0x00000011#32) ∧
    (State.reset.withFetchWord 32 0x11).target 0 4 = some (0, .cmd) ∧ decode 0x00000011#32 = .ok .hashMd5 ∧
    Instr.hashMd5.wellFormed = true := by decide

/-- The second of two instances, at the first and the last offset of its block and at the ends of the reserved span. -/
theorem test_hyps_register_map :
    (host small [Engine.reset 0, Engine.reset 0x80] []).engine? 1 = some (Engine.reset 0x80) ∧
    (∀ off ∈ [0x00, 0x18, 0x3C, 0x40, 0x7C], off < 0x80 ∧ off % 4 = 0 ∧
      ¬((Engine.reset 0).regBase ≤ (Engine.reset 0x80).regBase + off ∧
        (Engine.reset 0x80).regBase + off < (Engine.reset 0).regBase + 0x80)) := by decide

theorem test_hyps_register_map_before :
    ∀ j x, j < 1 → (host small [Engine.reset 0, Engine.reset 0x80] []).engine? j = some x → x = Engine.reset 0 := by
  intro j x hj hx
  obtain rfl : j = 0 := by omega
  exact (Option.some.inj hx).symm

theorem test_hyps_refused_width :
    (host small [Engine.reset 0] [.regWrite 0 2 1#32]).Performs (.regWrite 0 2 1#32) ∧ 2 ≠ 4 ∧
    (host small [Engine.reset 0] [.regRead 0 2]).Performs (.regRead 0 2) := by decide

theorem test_hyps_refused_outside :
    (host small [Engine.reset 0] [.regRead 0x80 4]).Performs (.regRead 0x80 4) ∧
    ∀ i e, (host small [Engine.reset 0] [.regRead 0x80 4]).engine? i = some e →
      ¬(e.regBase ≤ 0x80 ∧ 0x80 < e.regBase + 0x80) := by
  refine ⟨by decide, fun i e h => ?_⟩
  match i, h with
  | 0, h => obtain rfl : Engine.reset 0 = e := Option.some.inj h; decide
  | n + 1, h => exact absurd h (by simp [host, State.engine?])

theorem test_hyps_refused_misaligned :
    (host small [Engine.reset 0] [.regWrite 0x7D 4 1#32]).Performs (.regWrite 0x7D 4 1#32) ∧
    (host small [Engine.reset 0] [.regWrite 0x7D 4 1#32]).engine? 0 = some (Engine.reset 0) ∧
    (Engine.reset 0).regBase ≤ 0x7D ∧ 0x7D < (Engine.reset 0).regBase + 0x80 ∧
    (0x7D - (Engine.reset 0).regBase) % 4 ≠ 0 := by decide

/-- A finished instance in a state that meets the invariant: DLEN = 16, so DIGEST4 is the first register past it. -/
theorem test_hyps_digest_registers :
    (host small [finished] []).Inv ∧ (host small [finished] []).engine? 0 = some finished ∧
    finished.dlen.toNat / 4 ≤ (4 : Fin 16).val := by decide +kernel

theorem test_hyps_halves : finished.isBusy = false ∧ (Engine.reset 0).isBusy = false := by decide

theorem test_hyps_message_write :
    (host small [finished] [.regWrite 0x14 4 7#32]).Performs (.regWrite 0x14 4 7#32) ∧
    (host small [finished] [.regWrite 0x14 4 7#32]).target 0x14 4 = some (0, .msgLenHi) ∧
    (host small [finished] [.regWrite 0x14 4 7#32]).engine? 0 = some finished ∧ finished.isBusy = false ∧
    Reg.msgLenHi ≠ .cmd := by decide +kernel

theorem test_hyps_ignored_busy :
    (host small [busy 0x10 3] [.regWrite 0x00 4 0x12#32]).Performs (.regWrite 0x00 4 0x12#32) ∧
    (host small [busy 0x10 3] [.regWrite 0x00 4 0x12#32]).target 0x00 4 = some (0, .cmd) ∧
    (host small [busy 0x10 3] [.regWrite 0x00 4 0x12#32]).engine? 0 = some (busy 0x10 3) ∧
    (busy 0x10 3).isBusy = true := by decide

theorem test_hyps_ignored_digest :
    (host small [finished] [.regWrite 0x7C 4 1#32]).Performs (.regWrite 0x7C 4 1#32) ∧
    (host small [finished] [.regWrite 0x7C 4 1#32]).target 0x7C 4 = some (0, .digest 15) ∧
    (host small [finished] [.regWrite 0x7C 4 1#32]).engine? 0 = some finished := by decide +kernel

theorem test_hyps_read :
    (host small [busy 0x10 3] [.regRead 0x04 4]).Performs (.regRead 0x04 4) ∧
    (host small [busy 0x10 3] [.regRead 0x04 4]).target 0x04 4 = some (0, .status) := by decide

theorem test_hyps_reserved :
    (host small [busy 0x10 3] [.regRead 0x18 4]).engine? 0 = some (busy 0x10 3) ∧ 0x18 ≤ 0x3C ∧ 0x3C % 4 = 0 ∧
    (host small [busy 0x10 3] [.regRead 0x18 4]).Performs (.regRead ((busy 0x10 3).regBase + 0x18) 4) ∧
    (host small [busy 0x10 3] [.regWrite 0x3C 4 1#32]).Performs (.regWrite ((busy 0x10 3).regBase + 0x3C) 4 1#32) := by
  decide

theorem test_hyps_poll :
    (host small [busy 0x10 3] [.poll 0]).Performs (.poll 0) ∧
    (host small [busy 0x10 3] [.poll 0]).engine? 0 = some (busy 0x10 3) ∧ (busy 0x10 3).isBusy = true ∧
    (host small [ready 0x10 3] [.poll 0]).engine? 0 = some (ready 0x10 3) ∧ (ready 0x10 3).isBusy = false := by decide

/-- The last byte of memory, and a byte with a read side effect, which a host may read too. -/
theorem test_hyps_memory_read :
    (host small [] [.memRead 0xFF]).Performs (.memRead 0xFF) ∧ 0xFF < 2 ^ small.addrW ∧
    (host small [] [.memRead 0x80]).Performs (.memRead 0x80) ∧ meetsSideEffect small 0x80 1 = true := by decide

theorem test_hyps_memory_stops :
    2 ^ small.addrW ≤ 0x100 ∧ (host small [] [.memWrite 0x100 1#8]).Performs (.memWrite 0x100 1#8) ∧
    (host small [] [.memRead 0x100]).Performs (.memRead 0x100) := by decide

theorem test_hyps_reset_event :
    (resets small [busy 0x10 3]).Resets 0 ∧ (resets small [busy 0x10 3]).engine? 0 = some (busy 0x10 3) := by decide

/-- A reset between two reads of one POLL. -/
def polling : State :=
  { resets small [busy 0x10 3] with hosts := [[.poll 0]], sched := [.host 0, .platform, .host 0] }

theorem test_hyps_poll_reset :
    polling.engine? 0 = some (busy 0x10 3) ∧ (busy 0x10 3).isBusy = true ∧ polling.hosts[0]? = some (.poll 0 :: []) ∧
    polling.resets.head? = some 0 ∧ polling.sched = .host 0 :: .platform :: .host 0 :: [] := by decide

/-- 70_reset_and_hazards.md R287: the POLL reads BUSY = 1, then 0. -/
theorem test_poll_across_reset :
    (match Sys2Proof.core.run 3 polling with
      | .next t => State.recorded t
      | .refused _ => []) = [0x00000001#32, 0x00000000#32] := by decide

/-- The hypotheses of the six acceptance statements and of the way to the digest, the range ending at the last byte. -/
theorem test_hyps_accepted :
    (host small [ready 0x90 0x70] []).engine? (host small [ready 0x90 0x70] []).sel = some (ready 0x90 0x70) ∧
    (ready 0x90 0x70).isBusy = false ∧ small.allocMayFail = false ∧
    (ready 0x90 0x70).msgBase.toNat + (ready 0x90 0x70).msgLen.toNat ≤ 2 ^ small.addrW ∧
    meetsSideEffect small (ready 0x90 0x70).msgBase.toNat (ready 0x90 0x70).msgLen.toNat = false ∧
    MessageReadable small (ready 0x90 0x70).msgBase.toNat (ready 0x90 0x70).msgLen.toNat := by decide +kernel

/-- The range check and the side-effect check of the acceptance statement, each just met. -/
theorem test_hyps_acceptance_checks :
    2 ^ small.addrW < (ready 0x90 0x71).msgBase.toNat + (ready 0x90 0x71).msgLen.toNat ∧
    meetsSideEffect small (ready 0x83 1).msgBase.toNat (ready 0x83 1).msgLen.toNat = true ∧
    (ready 0x90 0x71).isBusy = false ∧ (ready 0x83 1).isBusy = false := by decide

theorem test_hyps_undefined :
    (host small [finished] [.regWrite 0 4 0x17#32]).Performs (.regWrite 0 4 0x17#32) ∧
    (host small [finished] [.regWrite 0 4 0x17#32]).target 0 4 = some (0, .cmd) ∧
    (host small [finished] [.regWrite 0 4 0x17#32]).engine? 0 = some finished ∧ finished.isBusy = false ∧
    0x17#32 ∉ [0x00000011#32, 0x00000012#32, 0x00000013#32, 0x00000014#32, 0x00000015#32, 0x00000016#32] := by
  decide +kernel

theorem test_hyps_command_frame :
    exec .hashMd5 (host small [busy 0x10 3] []) = .next (host small [busy 0x10 3] []) ∧ (busy 0x10 3).isBusy = true :=
  ⟨rfl, rfl⟩

/-- A block step over the message bytes of "abc", all readable. -/
theorem test_hyps_block_step :
    (turns small [busy 0x10 3] 1).engine? 0 = some (busy 0x10 3) ∧
    (busy 0x10 3).phase = .busy (freshCtx .md5 0x10 3) ∧ (freshCtx .md5 0x10 3).blk < (freshCtx .md5 0x10 3).nblk ∧
    MessageReadable small 0x10 3 := by decide

/-- A block step whose second message byte is refused. -/
theorem test_hyps_refused_read :
    (turns small [busy 0x3F 3] 1).engine? 0 = some (busy 0x3F 3) ∧
    (busy 0x3F 3).phase = .busy (freshCtx .md5 0x3F 3) ∧ (freshCtx .md5 0x3F 3).blk < (freshCtx .md5 0x3F 3).nblk ∧
    (freshCtx .md5 0x3F 3).blk * blockBytes (freshCtx .md5 0x3F 3).alg ≤ 1 ∧
    1 < ((freshCtx .md5 0x3F 3).blk + 1) * blockBytes (freshCtx .md5 0x3F 3).alg ∧ 1 < (freshCtx .md5 0x3F 3).len ∧
    readable small (0x3F + 1) = false ∧ readable small (0x3F + 0) = true := by decide

theorem test_hyps_finish :
    (turns small [last] 1).engine? 0 = some last ∧ last.phase = .busy lastCtx ∧ lastCtx.blk = lastCtx.nblk ∧
    last.race = false ∧ lastCtx.nblk ≤ lastCtx.blk := ⟨rfl, rfl, rfl, rfl, Nat.le_refl 1⟩

theorem test_hyps_raced_finish :
    (turns small [{ last with race := true }] 1).engine? 0 = some { last with race := true } ∧
    ({ last with race := true } : Engine).phase = .busy lastCtx := ⟨rfl, rfl⟩

/-- The same command in a memory that differs just past its message. -/
def elsewhere : State := { turns small [busy 0x10 3] 1 with mem := Memory.write abcMem 0x13 0xff#8 }

theorem test_hyps_reads_only :
    elsewhere.plat = (turns small [busy 0x10 3] 1).plat ∧ elsewhere.mem ≠ (turns small [busy 0x10 3] 1).mem ∧
    (turns small [busy 0x10 3] 1).engine? 0 = some (busy 0x10 3) ∧ elsewhere.engine? 0 = some (busy 0x10 3) ∧
    elsewhere.draws = (turns small [busy 0x10 3] 1).draws ∧
    ∀ k, k < (freshCtx .md5 0x10 3).len →
      Memory.read elsewhere.mem (0x10 + k) = Memory.read (turns small [busy 0x10 3] 1).mem (0x10 + k) := by decide

theorem test_hyps_invisible :
    ∃ e', (engineStep (turns small [busy 0x10 3] 1) 0).engine? 0 = some e' ∧ e'.isBusy = true := by
  obtain ⟨h, -⟩ | ⟨e, c, he, hp, ⟨-, h⟩ | ⟨hle, -⟩⟩ := engineStep_cases (turns small [busy 0x10 3] 1) 0
  · exact ⟨busy 0x10 3, by rw [h]; rfl, rfl⟩
  · obtain rfl : busy 0x10 3 = e := Option.some.inj he
    obtain rfl : freshCtx .md5 0x10 3 = c := Phase.busy.inj hp
    obtain ⟨a, ha, -⟩ | ⟨-, hb⟩ := blockStep_cases (turns small [busy 0x10 3] 1) 0 (busy 0x10 3) (freshCtx .md5 0x10 3)
    · obtain ⟨j, -, -, hj, -, hr, -⟩ := gather_refused ha
      exact absurd hr (by
        have hall : MessageReadable small 0x10 3 := by decide
        rw [show (turns small [busy 0x10 3] 1).plat = small from rfl]
        exact Bool.not_eq_false _ ▸ hall j hj)
    · exact ⟨_, by rw [h, hb]; exact State.engine?_setEngine_self _ rfl, rfl⟩
  · obtain rfl : busy 0x10 3 = e := Option.some.inj he
    obtain rfl : freshCtx .md5 0x10 3 = c := Phase.busy.inj hp
    exact absurd hle (by decide)

theorem test_hyps_host_write :
    (host small [busy 0x10 3] [.memWrite 0x12 1#8]).Performs (.memWrite 0x12 1#8) ∧ Memory.wf abcMem = true ∧
    0x12 < 2 ^ small.addrW ∧ 0xFF < 2 ^ small.addrW := by decide

theorem test_hyps_legal_platform :
    small.legal [0, 0x80] = true ∧ Memory.wf abcMem = true ∧ ∀ cell ∈ abcMem, cell.1 < 2 ^ small.addrW := by decide

/-- The invariant holds in a BUSY state, an engine's step from it is a next state, and the instance is in it. -/
theorem test_hyps_invariant :
    (turns small [busy 0x10 3] 1).Inv ∧
    step (turns small [busy 0x10 3] 1) = .next (engineStep (turns small [busy 0x10 3] 1).taken 0) ∧
    (turns small [busy 0x10 3] 1).engine? 0 = some (busy 0x10 3) :=
  ⟨by decide +kernel, step_engine rfl, rfl⟩

/-- An instance in IDLE and in DONE before and after one step, for the statements about two phases of one instance. -/
theorem test_hyps_one_step :
    step (host small [finished] []) = .next (host small [finished] []).taken ∧
    (host small [finished] []).engine? 0 = some finished ∧ (host small [finished] []).taken.engine? 0 = some finished :=
  ⟨rfl, rfl, rfl⟩

/-- The reset event takes a BUSY instance to IDLE, its operands to 0. -/
theorem test_hyps_reset_step :
    step (resets small [busy 0x10 3]) = .next ((resets small [busy 0x10 3]).taken.setEngine 0 (Engine.reset 0)) ∧
    (Engine.reset 0).phase = .idle ∧ (Engine.reset 0).msgLen ≠ (busy 0x10 3).msgLen :=
  ⟨rfl, rfl, by decide⟩

/-- An instance that shows AllocationFailure on a platform where no allocation fails any more. -/
theorem test_hyps_allocation :
    small.allocMayFail = false ∧
    step (host small [{ finished with result := .allocationFailure }] []) =
      .next (host small [{ finished with result := .allocationFailure }] []).taken :=
  ⟨rfl, rfl⟩

/-- HASH.MD5 over "abc" just accepted computes its digest. -/
theorem test_hyps_computes : (busy 0x10 3).Computes abcMem (freshCtx .md5 0x10 3) .md5 abc :=
  ⟨rfl, rfl, rfl, rfl, by decide, by decide, by decide, rfl⟩

theorem test_hyps_computes_step :
    Memory.wf (turns small [busy 0x10 3] 1).mem = true ∧ (turns small [busy 0x10 3] 1).engine? 0 = some (busy 0x10 3) ∧
    step (turns small [busy 0x10 3] 1) = .next (engineStep (turns small [busy 0x10 3] 1).taken 0) :=
  ⟨by decide, rfl, step_engine rfl⟩

/-- Two BUSY instances over the same bytes, each with the turns its command needs. -/
theorem test_hyps_ends :
    (turns small [busy 0x10 3] 2).engine? 0 = some (busy 0x10 3) ∧
    (freshCtx .md5 0x10 3).blk ≤ (freshCtx .md5 0x10 3).nblk ∧ MessageReadable small 0x10 3 ∧
    (turns small [busy 0x10 3] 2).sched =
      List.replicate ((freshCtx .md5 0x10 3).nblk - (freshCtx .md5 0x10 3).blk + 1) (.engine 0) ++ [] := by decide

theorem test_hyps_length_field :
    (0 : Nat) = (if lenLittleEndian .sha512 = true then
        ((pad .sha512 []).drop ((pad .sha512 []).length - lenBytes .sha512)).foldr (fun b n => b.toNat + 256 * n) 0
      else ((pad .sha512 []).drop ((pad .sha512 []).length - lenBytes .sha512)).foldl (fun n b => n * 256 + b.toNat) 0) ∧
    ([] : List Byte).length < 2 ^ 64 ∧ ([] : List Byte).length < 2 ^ 61 := by decide +kernel

theorem test_hyps_padded_block : MessageReadable small 0x10 3 ∧ 0 < blockCount .sha1 3 ∧ 1 < blockCount .sha1 56 := by decide

theorem test_hyps_least_multiple : 3 + 1 + lenBytes .md5 ≤ blockBytes .md5 * 1 := by decide

theorem test_hyps_padded_bytes :
    0 < [0x61#8].length ∧ 1 < 0x37 ∧ 0x37 < paddedLen .md5 1 - lenBytes .md5 ∧ 7 < lenBytes .md5 := by decide

theorem test_hyps_rotations : 0 < 31 ∧ 31 < 32 := by decide

end Sys2Proof.Tests
end

section
/-! The statements of spec/00_scope.md: rotations bit by bit (R12), the invariant after reset (R6), and what no step
changes (R6, R8). -/

namespace Sys2Proof.Machine

/-! ## Rotations, bit by bit (R12) -/

/-- The low `n` bits of a left rotation come from the top of the word, the others from `n` places below. -/
theorem getLsbD_rotl {w n j : Nat} (x : BitVec w) (hn : n < w) (hj : j < w) :
    (rotl x n).getLsbD j = if j < n then x.getLsbD (j + w - n) else x.getLsbD (j - n) := by
  simp only [rotl, BitVec.getLsbD_or, BitVec.getLsbD_shiftLeft, BitVec.getLsbD_ushiftRight]
  split
  · next hlow => simp [hlow, show w - n + j = j + w - n by omega]
  · next hlow => simp [hlow, hj, BitVec.getLsbD_of_ge x (w - n + j) (by omega)]

/-- The top `n` bits of a right rotation come from the bottom of the word, the others from `n` places above. -/
theorem getLsbD_rotr {w n i : Nat} (x : BitVec w) (hn : n < w) (hi : i < w) :
    (rotr x n).getLsbD i = if i + n < w then x.getLsbD (i + n) else x.getLsbD (i + n - w) := by
  simp only [rotr, BitVec.getLsbD_or, BitVec.getLsbD_shiftLeft, BitVec.getLsbD_ushiftRight, Nat.add_comm n i]
  split
  · next hin => simp [show i < w - n by omega]
  · next hout =>
    simp [hi, BitVec.getLsbD_of_ge x (i + n) (by omega), show ¬ i < w - n by omega,
      show i - (w - n) = i + n - w by omega]

/-- A sum of two numbers below `w` wraps at most once. -/
theorem add_mod_of_lt {w n i : Nat} (hn : n < w) (hi : i < w) :
    (i + n) % w = if i + n < w then i + n else i + n - w := by
  split
  · next hin => exact Nat.mod_eq_of_lt hin
  · next hout => rw [Nat.mod_eq_sub_mod (by omega), Nat.mod_eq_of_lt (by omega)]

/-- Settles O52: the two rotations' bits, where `i + n` stays inside the word and where it wraps. -/
theorem rotationsMoveEveryBit : Obligations.RotationsMoveEveryBit := by
  intro w n i x _ hn hi
  rw [getLsbD_rotl x hn (Nat.mod_lt _ (by omega)), getLsbD_rotr x hn hi, add_mod_of_lt hn hi]
  by_cases hin : i + n < w
  · simp [hin]
  · simp [hin, show i + n - w < n by omega, show i + n - w + w - n = i by omega]

/-! ## The invariant after reset (R6, 10_state.md R42, R45) -/

/-- An engine in reset is in order on every platform. -/
theorem Engine.reset_inv (p : Platform) (regBase : Nat) : (Engine.reset regBase).Inv p :=
  ⟨rfl, fun k _ => zeroDigest_get k⟩

@[simp] theorem State.resetOn_regBases (p : Platform) (bases : List Nat) (mem : Memory) :
    (State.resetOn p bases mem).engines.map Engine.regBase = bases := by
  have hid : Engine.regBase ∘ Engine.reset = id := rfl
  simp [State.resetOn, hid]

theorem State.resetOn_inv {p : Platform} {bases : List Nat} {mem : Memory} (hlegal : p.legal bases = true)
    (hwf : Memory.wf mem = true) (hin : ∀ cell ∈ mem, cell.1 < memBytes p) : (State.resetOn p bases mem).Inv := by
  refine ⟨by rw [State.resetOn_regBases]; exact hlegal, hwf, hin, fun e he => ?_⟩
  obtain ⟨b, -, rfl⟩ := List.mem_map.mp he
  exact Engine.reset_inv p b

/-- Settles O35: every engine is in order in reset, and legality and memory are as given. -/
theorem resetMeetsTheInvariant : Obligations.ResetMeetsTheInvariant :=
  ⟨State.resetOn_inv rfl State.reset_mem_wf (List.forall_mem_nil _), fun _ _ _ => State.resetOn_inv⟩

/-! ## What no step but a host write of memory changes (R6, R8, 20_memory.md R50) -/

theorem map_regBase_set {s : State} {i : Nat} {e e' : Engine} (he : s.engine? i = some e)
    (hb : e'.regBase = e.regBase) :
    (s.engines.set i e').map Engine.regBase = s.engines.map Engine.regBase := by
  obtain ⟨hlt, rfl⟩ := List.getElem?_eq_some_iff.mp he
  have hsame : (s.engines.map Engine.regBase)[i]'(by simpa using hlt) = e'.regBase := by simp [hb]
  rw [List.map_set, ← hsame, List.set_getElem_self]

/-- `t` has the platform, the memory and the engines' REG_BASEs of `s`. -/
structure State.SameHardware (s t : State) : Prop where
  plat : t.plat = s.plat
  regBases : t.engines.map Engine.regBase = s.engines.map Engine.regBase
  mem : t.mem = s.mem

namespace State.SameHardware

theorem refl (s : State) : s.SameHardware s := ⟨rfl, rfl, rfl⟩

theorem trans {s t u : State} (h : s.SameHardware t) (h' : t.SameHardware u) : s.SameHardware u :=
  ⟨h'.plat.trans h.plat, h'.regBases.trans h.regBases, h'.mem.trans h.mem⟩

theorem taken (s : State) : s.SameHardware s.taken := ⟨by simp, by simp, by simp⟩

theorem afterDraw (s : State) : s.SameHardware s.afterDraw := ⟨by simp, by simp, by simp⟩

theorem log (s : State) (l : List TraceEntry) : s.SameHardware (s.log l) := ⟨rfl, rfl, rfl⟩

theorem record (s : State) (v : Word32) : s.SameHardware (s.record v) := ⟨rfl, rfl, rfl⟩

/-- Replacing an engine by one at the same REG_BASE. -/
theorem setEngine {s : State} {i : Nat} {e e' : Engine} (he : s.engine? i = some e) (hb : e'.regBase = e.regBase) :
    s.SameHardware (s.setEngine i e') :=
  ⟨rfl, map_regBase_set he hb, rfl⟩

theorem raise {s : State} {i : Nat} {e e' : Engine} (r : Result) (info : Info) (he : s.engine? i = some e)
    (hb : e'.regBase = e.regBase) : s.SameHardware (s.raise i e' r info) :=
  (setEngine (e' := e'.raise r) he hb).trans (log _ _)

theorem accept {s t : State} {i : Nat} {e : Engine} {v : Word32} {alg : Option Alg} (he : s.engine? i = some e)
    (h : accept s i e v alg = .next t) : s.SameHardware t := by
  have hd : s.afterDraw.engine? i = some e := by simpa using he
  obtain ⟨-, rfl⟩ | ⟨a, -, ⟨-, rfl⟩ | ⟨-, -, rfl⟩ | ⟨-, -, -, rfl⟩⟩ := accept_cases h
  · exact raise _ _ he rfl
  · exact (afterDraw s).trans (raise _ _ hd rfl)
  · exact (afterDraw s).trans (raise _ _ hd rfl)
  · exact (afterDraw s).trans (setEngine hd rfl)

theorem writeCmd {s t : State} {v : Word32} {alg : Option Alg} (h : writeCmd v alg s = .next t) :
    s.SameHardware t := by
  obtain ⟨e, he, ⟨-, rfl⟩ | ⟨-, ha⟩⟩ := writeCmd_cases h
  · exact refl t
  · exact accept he ha

theorem runCommand {s t : State} {v : Word32} (h : runCommand v s = .next t) : s.SameHardware t := by
  cases hd : decode v with
  | ok i => rw [runCommand_of_ok hd, exec_eq] at h; exact writeCmd h
  | error u => rw [runCommand_of_error hd] at h; exact writeCmd h

theorem performRegWrite {s t : State} {addr width : Nat} {v : Word32} (h : performRegWrite addr width v s = .next t) :
    s.SameHardware t := by
  obtain ⟨i, r, e, -, he, ⟨-, hrun⟩ | ⟨-, rfl⟩⟩ := performRegWrite_cases h
  · exact trans (t := { s with sel := i }) ⟨rfl, rfl, rfl⟩ (runCommand hrun)
  · exact setEngine he (e.writeReg_regBase r v)

theorem performPoll {s t : State} {k i : Nat} (h : performPoll k i s = .next t) : s.SameHardware t := by
  obtain ⟨e, -, ⟨-, rfl⟩ | ⟨-, rfl⟩⟩ := performPoll_cases h
  · exact ⟨rfl, rfl, rfl⟩
  · exact record s _

theorem performReset {s t : State} {i : Nat} (h : performReset i s = .next t) : s.SameHardware t := by
  obtain ⟨e, he, rfl⟩ := performReset_cases h
  exact setEngine he e.resetEvent_regBase

theorem blockStep {s : State} {i : Nat} {e : Engine} (c : Ctx) (he : s.engine? i = some e) :
    s.SameHardware (blockStep s i e c) := by
  obtain ⟨a, -, heq⟩ | ⟨-, heq⟩ := blockStep_cases s i e c
  · rw [heq]; exact (log s _).trans (raise _ _ he rfl)
  · rw [heq]; exact (log s _).trans (setEngine he rfl)

theorem finishStep {s : State} {i : Nat} {e : Engine} (c : Ctx) (he : s.engine? i = some e) :
    s.SameHardware (finishStep s i e c) := by
  rw [finishStep_eq]
  exact ⟨rfl, map_regBase_set he rfl, rfl⟩

theorem engineStep (s : State) (i : Nat) : s.SameHardware (engineStep s i) := by
  obtain ⟨heq, -⟩ | ⟨e, c, he, -, ⟨-, heq⟩ | ⟨-, heq⟩⟩ := engineStep_cases s i
  · rw [heq]; exact refl s
  · rw [heq]; exact blockStep c he
  · rw [heq]; exact finishStep c he

end State.SameHardware

/-- A host's event keeps the hardware, or it is a write of memory, performed. -/
theorem perform_sameHardware_or_hostWrite {s t : State} {k : Nat} {ev : Event} (h : perform k ev s = .next t) :
    s.SameHardware t ∨ ∃ a b, ev = .memWrite a b ∧ t = s.hostWrite a b := by
  cases ev with
  | regWrite addr width v => exact .inl (.performRegWrite h)
  | regRead addr width =>
    obtain ⟨i, r, e, -, -, rfl⟩ := performRegRead_cases h
    exact .inl (.record s _)
  | poll i => exact .inl (.performPoll h)
  | memWrite a b => exact .inr ⟨a, b, rfl, (performMemWrite_cases h).2⟩
  | memRead a =>
    obtain ⟨-, rfl⟩ := performMemRead_cases h
    exact .inl (.record s _)

/-- A step keeps the hardware, or it is a host's write of memory, performed. -/
theorem step_sameHardware_or_hostWrite {s t : State} (h : step s = .next t) :
    s.SameHardware t ∨ ∃ a b, s.Performs (.memWrite a b) ∧ t = s.taken.hostWrite a b := by
  obtain ⟨i, -, rfl⟩ | rfl | ⟨k, ev, -, hev, hp⟩ | ⟨i, -, hp⟩ := step_cases h
  · exact .inl ((State.SameHardware.taken s).trans (.engineStep _ i))
  · exact .inl (.taken s)
  · obtain hsame | ⟨a, b, rfl, rfl⟩ := perform_sameHardware_or_hostWrite hp
    · exact .inl ((State.SameHardware.taken s).trans hsame)
    · exact .inr ⟨a, b, hev, rfl⟩
  · exact .inl ((State.SameHardware.taken s).trans (.performReset hp))

/-- Settles O40: a write of memory changes no engine but in `race`, and every other step keeps the hardware. -/
theorem parametersAndMemoryStayPut : Obligations.ParametersAndMemoryStayPut := by
  intro s t h
  obtain hsame | ⟨a, b, hev, rfl⟩ := step_sameHardware_or_hostWrite h
  · exact ⟨hsame.plat, hsame.regBases, .inl hsame.mem⟩
  · exact ⟨by simp, by simp [Function.comp_def], .inr ⟨a, b, hev⟩⟩

end Sys2Proof.Machine
end

section
/-! The statements of spec/10_state.md: the register block (R20 to R29, R41), the frame of an engine's step (R31, R37,
R38, R40), and the invariant (R23 to R25, R30, R33, R36, R45). -/

namespace Sys2Proof.Machine

/-! ## Command words (30_encoding.md R71, R72, R77) -/

@[simp] theorem decode_encode (i : Instr) : decode (encode i) = .ok i := by cases i <;> rfl

/-- An ALG field that names a command is that command's. -/
theorem decodeAlg_eq_ok {a : BitVec 4} {i : Instr} (h : decodeAlg a = .ok i) : a = i.algField := by
  unfold decodeAlg at h
  split at h <;> cases h <;> exact BitVec.eq_of_toNat_eq ‹_›

/-- A word that decodes is the command's word: its RSV and OP are fixed, and its ALG names the command. -/
theorem eq_encode_of_decode {v : Word32} {i : Instr} (h : decode v = .ok i) : v = encode i := by
  unfold decode at h
  split at h
  · cases h
  split at h
  · cases h
  have hrsv : v.extractLsb' 8 24 = 0#24 := not_not.mp ‹_›
  have hop : v.extractLsb' 4 4 = opHash := not_not.mp ‹_›
  have halg : v.extractLsb' 0 4 = i.algField := decodeAlg_eq_ok h
  have hhigh : v.extractLsb' 8 24 ++ v.extractLsb' 4 4 = v.extractLsb' 4 28 :=
    BitVec.extractLsb'_append_extractLsb'_eq_extractLsb' rfl
  have hall : v.extractLsb' 4 28 ++ v.extractLsb' 0 4 = v.extractLsb' 0 32 :=
    BitVec.extractLsb'_append_extractLsb'_eq_extractLsb' rfl
  rw [encode, ← hrsv, ← hop, ← halg, hhigh, hall, BitVec.extractLsb'_eq_self]

/-- The words that select an algorithm are those of its commands. -/
theorem decodedAlg_eq_some {v : Word32} {a : Alg} : decodedAlg v = some a ↔ ∃ i, v = encode i ∧ algOf i = a := by
  constructor
  · intro h
    unfold decodedAlg at h
    split at h
    · next i hd => exact ⟨i, eq_encode_of_decode hd, Option.some.inj h⟩
    · cases h
  · rintro ⟨i, rfl, rfl⟩
    simp [decodedAlg]

theorem decodedAlg_isSome {v : Word32} : (decodedAlg v).isSome = true ↔ ∃ i, v = encode i := by
  simp [Option.isSome_iff_exists, decodedAlg_eq_some]

theorem decodedAlg_isNone {v : Word32} : (decodedAlg v).isNone = true ↔ ∀ i, v ≠ encode i := by
  rw [← Option.not_isSome, Bool.not_eq_true', ← Bool.not_eq_true, decodedAlg_isSome, not_exists]

/-- A CMD write is `writeCmd` with the algorithm its word selects. -/
theorem runCommand_eq (v : Word32) (s : State) : runCommand v s = writeCmd v (decodedAlg v) s := by
  cases hd : decode v with
  | ok i => simp [runCommand_of_ok hd, exec_eq, decodedAlg, hd, ← eq_encode_of_decode hd]
  | error u => simp [runCommand_of_error hd, decodedAlg, hd]

/-! ## What the invariant says in each phase -/

theorem Ctx.ok_iff (p : Platform) (c : Ctx) :
    c.ok p = true ↔ c.base + c.len ≤ memBytes p ∧ c.len < 2 ^ 64 ∧ c.nblk = blockCount c.alg c.len ∧ c.blk ≤ c.nblk := by
  simp [Ctx.ok, and_assoc]

namespace Engine

variable {p : Platform} {e : Engine}

theorem phaseOk_idle (hp : e.phase = .idle) :
    e.phaseOk p = true ↔ e.cmd = 0#32 ∧ e.result = .ok ∧ e.dlen = 0#8 ∧ e.race = false := by
  simp [phaseOk, hp, and_assoc]

theorem phaseOk_busy {c : Ctx} (hp : e.phase = .busy c) :
    e.phaseOk p = true ↔ e.result = .ok ∧ e.dlen = 0#8 ∧ c.ok p = true ∧ c.base = e.msgBase.toNat ∧
      c.len = e.msgLen.toNat ∧ decodedAlg e.cmd = some c.alg := by
  simp [phaseOk, hp, and_assoc]

theorem phaseOk_ok (hp : e.phase = .done) (hr : e.result = .ok) :
    e.phaseOk p = true ↔ ∃ a, decodedAlg e.cmd = some a ∧ e.dlen.toNat = digestBytes a := by
  cases h : decodedAlg e.cmd <;> simp [phaseOk, hp, hr, h]

theorem phaseOk_allocationFailure (hp : e.phase = .done) (hr : e.result = .allocationFailure) :
    e.phaseOk p = true ↔ e.dlen = 0#8 ∧ (decodedAlg e.cmd).isSome = true ∧ p.allocMayFail = true := by
  simp [phaseOk, hp, hr, and_assoc]

theorem phaseOk_unsupportedAlgorithm (hp : e.phase = .done) (hr : e.result = .unsupportedAlgorithm) :
    e.phaseOk p = true ↔ e.dlen = 0#8 ∧ (decodedAlg e.cmd).isNone = true := by
  simp [phaseOk, hp, hr]

theorem phaseOk_accessFault (hp : e.phase = .done) (hr : e.result = .accessFault) :
    e.phaseOk p = true ↔ e.dlen = 0#8 ∧ (decodedAlg e.cmd).isSome = true := by
  simp [phaseOk, hp, hr]

theorem isDone_iff (e : Engine) : e.isDone = true ↔ e.phase = .done := by
  unfold isDone; split <;> simp_all

/-! ## Every change of an engine keeps its invariant -/

theorem tailZero_of_digest (h : e.digest = zeroDigest) : e.TailZero := fun k _ => by rw [h, zeroDigest_get]

/-- With DLEN = 0 the whole of D is 0. -/
theorem digest_eq_zero (ht : e.TailZero) (hd : e.dlen = 0#8) (k : Fin 64) : e.digest[k] = 0x00#8 :=
  ht k (by simp [hd])

/-- An error meets the invariant if its result fits the command word. -/
theorem raise_inv {r : Result} (h : (e.raise r).phaseOk p = true) : (e.raise r).Inv p :=
  ⟨h, tailZero_of_digest rfl⟩

theorem raise_accessFault_inv (h : (decodedAlg e.cmd).isSome = true) : (e.raise .accessFault).Inv p :=
  raise_inv ((phaseOk_accessFault rfl rfl).mpr ⟨rfl, h⟩)

theorem enterBusy_inv {v : Word32} {a : Alg} (hv : decodedAlg v = some a)
    (hfit : e.msgBase.toNat + e.msgLen.toNat ≤ memBytes p) : ((e.beginCommand v).enterBusy a).Inv p := by
  have hctx : (freshCtx a e.msgBase.toNat e.msgLen.toNat).ok p = true :=
    (Ctx.ok_iff ..).mpr ⟨hfit, e.msgLen.isLt, by rw [freshCtx_alg]; rfl, Nat.zero_le _⟩
  exact ⟨(phaseOk_busy rfl).mpr ⟨rfl, rfl, hctx, rfl, rfl, by rw [freshCtx_alg]; exact hv⟩, tailZero_of_digest rfl⟩

/-- A write of a half changes MSG_BASE and MSG_LEN outside BUSY alone, where the invariant does not speak of them. -/
theorem writeReg_inv (r : Reg) (v : Word32) (h : e.Inv p) : (e.writeReg r v).Inv p := by
  cases hb : e.isBusy with
  | true => rwa [writeReg_of_busy e r v hb]
  | false =>
    obtain ⟨hok, htail⟩ := h
    refine ⟨?_, by simpa [TailZero] using htail⟩
    cases hp : e.phase with
    | busy c => simp [isBusy, hp] at hb
    | idle => simpa [phaseOk, hp] using hok
    | done => simpa [phaseOk, hp] using hok

/-- Only an engine in BUSY has a message for a host write to race with. -/
theorem noteWrite_inv (a : Nat) (h : e.Inv p) : (e.noteWrite a).Inv p := by
  obtain ⟨hok, htail⟩ := h
  refine ⟨?_, by simpa [TailZero] using htail⟩
  cases hp : e.phase with
  | busy c => simpa [phaseOk, hp] using hok
  | idle => simpa [phaseOk, hp, noteWrite_race, messageHolds, ctx] using hok
  | done => simpa [phaseOk, hp] using hok

/-! ## What an engine's step makes of the engine itself (40_pipeline.md R95 to R97) -/

/-- The engine after a block step that got `g`. -/
def afterBlock (e : Engine) (c : Ctx) (g : Gathered) : Engine :=
  match g.refusedAt with
  | some _ => e.raise .accessFault
  | none => { e with phase := .busy (c.advance g.bytes) }

/-- The engine after a finish step that writes the bytes `S`. -/
def afterFinish (e : Engine) (c : Ctx) (S : List Byte) : Engine :=
  { e with
    digest := writeDigest e.digest S
    dlen := BitVec.ofNat 8 (digestBytes c.alg)
    result := .ok
    phase := .done }

theorem afterBlock_refused {g : Gathered} {a : Nat} (c : Ctx) (hg : g.refusedAt = some a) :
    e.afterBlock c g = e.raise .accessFault := by
  simp [afterBlock, hg]

theorem afterBlock_got {g : Gathered} (c : Ctx) (hg : g.refusedAt = none) :
    e.afterBlock c g = { e with phase := .busy (c.advance g.bytes) } := by
  simp [afterBlock, hg]

theorem afterBlock_inv {c : Ctx} (g : Gathered) (h : e.Inv p) (hp : e.phase = .busy c) (hlt : c.blk < c.nblk) :
    (e.afterBlock c g).Inv p := by
  obtain ⟨hok, htail⟩ := h
  obtain ⟨hres, hdlen, hctx, hbase, hlen, hcmd⟩ := (phaseOk_busy hp).mp hok
  cases hg : g.refusedAt with
  | some a =>
    rw [afterBlock_refused c hg]
    exact raise_accessFault_inv (by simp [hcmd])
  | none =>
    obtain ⟨hfit, hbound, hnblk, -⟩ := (Ctx.ok_iff p c).mp hctx
    have hctx' : (c.advance g.bytes).ok p = true :=
      (Ctx.ok_iff ..).mpr ⟨hfit, hbound, by rw [advance_alg]; exact hnblk, hlt⟩
    rw [afterBlock_got c hg]
    exact ⟨(phaseOk_busy rfl).mpr ⟨hres, hdlen, hctx', hbase, hlen, by rw [advance_alg]; exact hcmd⟩, htail⟩

/-- D was clear in BUSY, and the finish step writes exactly its first DLEN bytes. -/
theorem afterFinish_inv {c : Ctx} {S : List Byte} (h : e.Inv p) (hp : e.phase = .busy c)
    (hS : S.length = digestBytes c.alg) : (e.afterFinish c S).Inv p := by
  obtain ⟨hok, htail⟩ := h
  obtain ⟨-, hdlen, -, -, -, hcmd⟩ := (phaseOk_busy hp).mp hok
  refine ⟨(phaseOk_ok rfl rfl).mpr ⟨c.alg, hcmd, digestBytes_ofNat _⟩, fun k hk => ?_⟩
  have hk' : ¬ k.val < S.length := by
    rw [hS, ← digestBytes_ofNat]
    exact Nat.not_lt.mpr hk
  exact (writeDigest_get e.digest S k).trans (by rw [if_neg hk', digest_eq_zero htail hdlen])

end Engine

theorem blockStep_engines (s : State) (i : Nat) (e : Engine) (c : Ctx) :
    (blockStep s i e c).engines = s.engines.set i (e.afterBlock c (gatherBlock s.plat s.mem c)) := by
  obtain ⟨a, hg, heq⟩ | ⟨hg, heq⟩ := blockStep_cases s i e c
  · rw [heq, Engine.afterBlock_refused c hg]; rfl
  · rw [heq, Engine.afterBlock_got c hg]; rfl

theorem finishStep_engines (s : State) (i : Nat) (e : Engine) (c : Ctx) :
    (finishStep s i e c).engines = s.engines.set i (e.afterFinish c (finishBytes s e c)) := by
  rw [finishStep_eq]; rfl

/-- The state an engine's step leaves, as far as its engines go: the same, or its own in BUSY replaced. -/
theorem engineStep_engines_cases (s : State) (i : Nat) :
    engineStep s i = s ∨
    ∃ e c, s.engine? i = some e ∧ e.phase = .busy c ∧
      ((c.blk < c.nblk ∧
          (engineStep s i).engines = s.engines.set i (e.afterBlock c (gatherBlock s.plat s.mem c))) ∨
       (c.nblk ≤ c.blk ∧ (engineStep s i).engines = s.engines.set i (e.afterFinish c (finishBytes s e c)))) := by
  obtain ⟨heq, -⟩ | ⟨e, c, he, hp, ⟨hlt, heq⟩ | ⟨hle, heq⟩⟩ := engineStep_cases s i
  · exact .inl heq
  · exact .inr ⟨e, c, he, hp, .inl ⟨hlt, by rw [heq, blockStep_engines]⟩⟩
  · exact .inr ⟨e, c, he, hp, .inr ⟨hle, by rw [heq, finishStep_engines]⟩⟩

/-! ## Every step keeps the invariant -/

/-- Every engine of the state meets the invariant on platform `p`. -/
def State.EnginesInv (p : Platform) (s : State) : Prop := ∀ e ∈ s.engines, e.Inv p

namespace State.EnginesInv

variable {p : Platform} {s t : State}

theorem congr (ht : t.engines = s.engines) (h : s.EnginesInv p) : t.EnginesInv p := by
  unfold EnginesInv; rwa [ht]

/-- Replacing an engine by one in order. -/
theorem set {i : Nat} {e : Engine} (ht : t.engines = s.engines.set i e) (h : s.EnginesInv p) (he : e.Inv p) :
    t.EnginesInv p := by
  intro x hx
  rw [ht] at hx
  obtain rfl | hx := State.mem_setEngine (s := s) (i := i) hx
  · exact he
  · exact h x hx

theorem engine? {i : Nat} {e : Engine} (h : s.EnginesInv p) (he : s.engine? i = some e) : e.Inv p :=
  h e (State.mem_of_engine? he)

theorem accept {i : Nat} {e : Engine} {v : Word32} (h : s.EnginesInv s.plat)
    (hs : accept s i e v (decodedAlg v) = .next t) : t.EnginesInv s.plat := by
  have hd : s.afterDraw.EnginesInv s.plat := h.congr (State.afterDraw_engines s)
  obtain ⟨hv, rfl⟩ | ⟨a, hv, ⟨hdraw, rfl⟩ | ⟨-, -, rfl⟩ | ⟨-, hfit, -, rfl⟩⟩ := accept_cases hs
  · exact h.set rfl (Engine.raise_inv ((Engine.phaseOk_unsupportedAlgorithm rfl rfl).mpr ⟨rfl, by simp [hv]⟩))
  · have hmay : s.plat.allocMayFail = true := (Bool.and_eq_true_iff.mp hdraw).1
    exact hd.set rfl (Engine.raise_inv ((Engine.phaseOk_allocationFailure rfl rfl).mpr ⟨rfl, by simp [hv], hmay⟩))
  · exact hd.set rfl (Engine.raise_accessFault_inv (by simp [hv]))
  · exact hd.set rfl (Engine.enterBusy_inv hv hfit)

theorem runCommand {v : Word32} (h : s.EnginesInv s.plat) (hs : runCommand v s = .next t) :
    t.EnginesInv s.plat := by
  rw [runCommand_eq] at hs
  obtain ⟨e, -, ⟨-, rfl⟩ | ⟨-, ha⟩⟩ := writeCmd_cases hs
  · exact h
  · exact h.accept ha

theorem performRegWrite {addr width : Nat} {v : Word32} (h : s.EnginesInv s.plat)
    (hs : performRegWrite addr width v s = .next t) : t.EnginesInv s.plat := by
  obtain ⟨i, r, e, -, he, ⟨-, hrun⟩ | ⟨-, rfl⟩⟩ := performRegWrite_cases hs
  · exact runCommand (s := { s with sel := i }) h hrun
  · exact h.set rfl (Engine.writeReg_inv r v (h.engine? he))

theorem hostWrite (a : Nat) (b : Byte) (h : s.EnginesInv p) : (s.hostWrite a b).EnginesInv p := by
  intro x hx
  obtain ⟨e, he, rfl⟩ := List.mem_map.mp hx
  exact Engine.noteWrite_inv a (h e he)

theorem perform {k : Nat} {ev : Event} (h : s.EnginesInv s.plat) (hs : perform k ev s = .next t) :
    t.EnginesInv s.plat := by
  cases ev with
  | regWrite addr width v => exact h.performRegWrite hs
  | regRead addr width =>
    obtain ⟨i, r, e, -, -, rfl⟩ := performRegRead_cases hs
    exact h
  | poll i =>
    obtain ⟨e, -, ⟨-, rfl⟩ | ⟨-, rfl⟩⟩ := performPoll_cases hs
    · exact h
    · exact h
  | memWrite a b =>
    obtain ⟨-, rfl⟩ := performMemWrite_cases hs
    exact h.hostWrite a b
  | memRead a =>
    obtain ⟨-, rfl⟩ := performMemRead_cases hs
    exact h

theorem engineStep (i : Nat) (h : s.EnginesInv p) : (engineStep s i).EnginesInv p := by
  obtain heq | ⟨e, c, he, hp, ⟨hlt, heq⟩ | ⟨-, heq⟩⟩ := engineStep_engines_cases s i
  · rwa [heq]
  · exact h.set heq (Engine.afterBlock_inv _ (h.engine? he) hp hlt)
  · exact h.set heq (Engine.afterFinish_inv (h.engine? he) hp (finishBytes_length s e c))

theorem step (h : s.EnginesInv s.plat) (hs : step s = .next t) : t.EnginesInv s.plat := by
  have htaken : s.taken.EnginesInv s.plat := h.congr (State.taken_engines s)
  obtain ⟨i, -, rfl⟩ | rfl | ⟨k, ev, -, -, hp⟩ | ⟨i, -, hp⟩ := step_cases hs
  · exact htaken.engineStep i
  · exact htaken
  · have hplat : s.taken.plat = s.plat := State.taken_plat s
    rw [← hplat] at htaken ⊢
    exact htaken.perform hp
  · obtain ⟨e, -, rfl⟩ := performReset_cases hp
    exact htaken.set rfl (Engine.reset_inv s.plat e.regBase)

end State.EnginesInv

/-- A write inside the memory keeps the memory in canonical form and inside the address space. -/
theorem step_keeps_memory {s t : State} (h : s.Inv) (hs : step s = .next t) :
    Memory.wf t.mem = true ∧ ∀ cell ∈ t.mem, cell.1 < memBytes s.plat := by
  obtain ⟨-, hwf, hcells, -⟩ := h
  obtain hsame | ⟨a, b, hev, rfl⟩ := step_sameHardware_or_hostWrite hs
  · rw [hsame.mem]
    exact ⟨hwf, hcells⟩
  · obtain ⟨k, -, -, hstep⟩ := step_performs hev
    obtain ⟨ha, -⟩ := performMemWrite_cases (hstep.symm.trans hs)
    rw [State.taken_plat] at ha
    rw [State.hostWrite_mem, State.taken_mem]
    refine ⟨Memory.wf_write a b hwf, fun cell hc => ?_⟩
    obtain rfl | hc := Memory.mem_write hc
    · exact ha
    · exact hcells cell hc

/-- Settles O36: the platform stays as it is, memory changes by host writes alone, and every change of an engine
keeps it in order. -/
theorem everyStepKeepsTheInvariant : Obligations.EveryStepKeepsTheInvariant := by
  intro s t hinv hs
  obtain ⟨hplat, hbases, -⟩ := parametersAndMemoryStayPut s t hs
  obtain ⟨hwf, hcells⟩ := step_keeps_memory hinv hs
  obtain ⟨hlegal, -, -, hengines⟩ := hinv
  exact ⟨by rwa [hplat, hbases], hwf, by rwa [hplat], by rw [hplat]; exact State.EnginesInv.step hengines hs⟩

/-! ## What an engine's step can reach (R31, R37, R38, R40) -/

/-- The frame of an engine's step outside the list of engines. -/
theorem engineStep_frame (s : State) (i : Nat) :
    (engineStep s i).sel = s.sel ∧ (engineStep s i).hosts = s.hosts ∧ (engineStep s i).resets = s.resets ∧
      (engineStep s i).sched = s.sched ∧ (engineStep s i).recorded = s.recorded := by
  obtain ⟨heq, -⟩ | ⟨e, c, -, -, ⟨-, heq⟩ | ⟨-, heq⟩⟩ := engineStep_cases s i
  · simp [heq]
  · rw [heq]
    obtain ⟨a, -, hb⟩ | ⟨-, hb⟩ := blockStep_cases s i e c <;> simp [hb]
  · simp [heq, finishStep_eq]

/-- What a replacement of engine `i` on the list leaves at `i`. -/
theorem State.engine?_set_self {s t : State} {i : Nat} {e e' : Engine} (he : s.engine? i = some e)
    (ht : t.engines = s.engines.set i e') : t.engine? i = some e' :=
  (State.engine?_congr (s := s.setEngine i e') ht i).trans (State.engine?_setEngine_self e' he)

theorem State.engine?_set_ne {s t : State} {i j : Nat} {e' : Engine} (hj : j ≠ i)
    (ht : t.engines = s.engines.set i e') : t.engine? j = s.engine? j :=
  (State.engine?_congr (s := s.setEngine i e') ht j).trans (State.engine?_setEngine_ne e' hj.symm)

theorem engineStep_engine?_ne {i j : Nat} (s : State) (hj : j ≠ i) : (engineStep s i).engine? j = s.engine? j := by
  obtain heq | ⟨e, c, -, -, ⟨-, heq⟩ | ⟨-, heq⟩⟩ := engineStep_engines_cases s i
  · rw [heq]
  · exact State.engine?_set_ne hj heq
  · exact State.engine?_set_ne hj heq

namespace Engine

/-- The registers only a host writes, and `race`, are those of `e`. -/
structure SameOperands (e e' : Engine) : Prop where
  regBase : e'.regBase = e.regBase
  cmd : e'.cmd = e.cmd
  msgBase : e'.msgBase = e.msgBase
  msgLen : e'.msgLen = e.msgLen
  race : e'.race = e.race

theorem sameOperands_afterBlock (e : Engine) (c : Ctx) (g : Gathered) : e.SameOperands (e.afterBlock c g) := by
  cases hg : g.refusedAt with
  | some a => rw [afterBlock_refused c hg]; exact ⟨rfl, rfl, rfl, rfl, rfl⟩
  | none => rw [afterBlock_got c hg]; exact ⟨rfl, rfl, rfl, rfl, rfl⟩

end Engine

theorem engineStep_sameOperands {s : State} {i : Nat} {e : Engine} (he : s.engine? i = some e) :
    ∃ e', (engineStep s i).engine? i = some e' ∧ e.SameOperands e' := by
  obtain heq | ⟨x, c, hx, -, hcases⟩ := engineStep_engines_cases s i
  · exact ⟨e, by rw [heq, he], ⟨rfl, rfl, rfl, rfl, rfl⟩⟩
  · obtain rfl : x = e := Option.some.inj (hx.symm.trans he)
    obtain ⟨-, heq⟩ | ⟨-, heq⟩ := hcases
    · exact ⟨_, State.engine?_set_self he heq, x.sameOperands_afterBlock c _⟩
    · exact ⟨_, State.engine?_set_self he heq, ⟨rfl, rfl, rfl, rfl, rfl⟩⟩

/-- Settles O31: a block step and a finish step replace the engine itself and write the model's log and count of free
values alone. -/
theorem engineStepsLeaveTheRestAlone : Obligations.EngineStepsLeaveTheRestAlone := by
  intro s i
  have hw := State.SameHardware.engineStep s i
  obtain ⟨hsel, hhosts, hresets, hsched, hrec⟩ := engineStep_frame s i
  refine ⟨hw.plat, hw.mem, hsel, hhosts, hresets, hsched, hrec, fun j hj => engineStep_engine?_ne s hj,
    fun e he => ?_⟩
  obtain ⟨e', he', hops⟩ := engineStep_sameOperands he
  exact ⟨e', he', hops.regBase, hops.cmd, hops.msgBase, hops.msgLen, hops.race⟩

theorem engineStep_of_not_busy {s : State} {i : Nat} {e : Engine} (he : s.engine? i = some e)
    (hb : e.isBusy = false) : engineStep s i = s := by
  simp [engineStep, he, e.ctx_of_not_busy hb]

theorem engineStep_engine?_block {s : State} {i : Nat} {e : Engine} {c : Ctx} (he : s.engine? i = some e)
    (hp : e.phase = .busy c) (hlt : c.blk < c.nblk) :
    (engineStep s i).engine? i = some (e.afterBlock c (gatherBlock s.plat s.mem c)) := by
  rw [engineStep_block he hp hlt]
  exact State.engine?_set_self he (blockStep_engines s i e c)

theorem engineStep_engine?_finish {s : State} {i : Nat} {e : Engine} {c : Ctx} (he : s.engine? i = some e)
    (hp : e.phase = .busy c) (hle : c.nblk ≤ c.blk) :
    (engineStep s i).engine? i = some (e.afterFinish c (finishBytes s e c)) := by
  rw [engineStep_finish he hp hle]
  exact State.engine?_set_self he (finishStep_engines s i e c)

/-- The block loop reads no byte of memory but the message's. -/
theorem gather_congr {p : Platform} {m m' : Memory} {alg : Alg} {base len : Nat}
    (h : ∀ k, k < len → Memory.read m' (base + k) = Memory.read m (base + k)) (k n : Nat) :
    gather p m' alg base len k n = gather p m alg base len k n := by
  induction n generalizing k with
  | zero => rfl
  | succ n ih =>
    by_cases hk : k < len
    · have hread : memRead p m' (base + k) = memRead p m (base + k) := by simp [memRead, h k hk]
      simp only [gather, hk, if_true, hread, ih]
    · simp only [gather, hk, if_false, ih]

/-- Settles O32: a block step depends on what it gathers, and a finish step on the context and, if raced, on the count
of free values. -/
theorem engineReadsOnlyItsMessage : Obligations.EngineReadsOnlyItsMessage := by
  intro s s' i e hplat he he' hdraws hmem
  cases hb : e.isBusy with
  | false => rw [engineStep_of_not_busy he hb, engineStep_of_not_busy he' hb, he, he']
  | true =>
    obtain ⟨c, hp⟩ := e.isBusy_iff.mp hb
    by_cases hlt : c.blk < c.nblk
    · have hgather : gatherBlock s'.plat s'.mem c = gatherBlock s.plat s.mem c := by
        rw [hplat]
        exact gather_congr (hmem c hp) _ _
      rw [engineStep_engine?_block he hp hlt, engineStep_engine?_block he' hp hlt, hgather]
    · have hbytes : finishBytes s' e c = finishBytes s e c := by simp [finishBytes, hdraws]
      rw [engineStep_engine?_finish he hp (Nat.not_lt.mp hlt), engineStep_engine?_finish he' hp (Nat.not_lt.mp hlt),
        hbytes]

/-- A new context in BUSY shows in no register. -/
theorem Engine.readReg_busy {e : Engine} {c : Ctx} (hp : e.phase = .busy c) (c' : Ctx) (r : Reg) :
    { e with phase := .busy c' }.readReg r = e.readReg r := by
  cases r with
  | status => simp [readReg, status, isBusy, isDone, hp]
  | _ => rfl

/-- Settles O33: a step that leaves its engine BUSY is a block step with no refused read, and changes the context
alone. -/
theorem blockStepIsInvisible : Obligations.BlockStepIsInvisible := by
  intro s i e e' c he hp he' hb r
  by_cases hlt : c.blk < c.nblk
  · obtain rfl := Option.some.inj ((engineStep_engine?_block he hp hlt).symm.trans he')
    cases hg : (gatherBlock s.plat s.mem c).refusedAt with
    | some a => simp [Engine.afterBlock_refused c hg] at hb
    | none =>
      rw [Engine.afterBlock_got c hg]
      exact Engine.readReg_busy hp _ r
  · obtain rfl := Option.some.inj ((engineStep_engine?_finish he hp (Nat.not_lt.mp hlt)).symm.trans he')
    cases hb

/-! ## STATUS and the digest registers (R22 to R25, R28, R45) -/

namespace Engine

theorem status_busyBit (e : Engine) : e.status.getLsbD 0 = e.isBusy := by
  rw [status, BitVec.getLsbD_append]
  simp

theorem status_doneBit (e : Engine) : e.status.getLsbD 1 = e.isDone := by
  rw [status, BitVec.getLsbD_append, BitVec.getLsbD_append]
  simp

theorem status_lowReserved (e : Engine) : e.status.extractLsb' 2 2 = 0#2 := by
  unfold status
  iterate 2 rw [BitVec.extractLsb'_append_eq_of_le (by decide)]
  exact BitVec.extractLsb'_append_eq_right

theorem status_result (e : Engine) : e.status.extractLsb' 4 4 = e.result.code := by
  unfold status
  iterate 3 rw [BitVec.extractLsb'_append_eq_of_le (by decide)]
  exact BitVec.extractLsb'_append_eq_right

theorem status_dlen (e : Engine) : e.status.extractLsb' 8 8 = e.dlen := by
  unfold status
  iterate 4 rw [BitVec.extractLsb'_append_eq_of_le (by decide)]
  exact BitVec.extractLsb'_append_eq_right

theorem status_highReserved (e : Engine) : e.status.extractLsb' 16 16 = 0#16 := by
  unfold status
  iterate 4 rw [BitVec.extractLsb'_append_eq_of_le (by decide)]
  exact BitVec.extractLsb'_append_eq_left

theorem writeReg_status (e : Engine) (v : Word32) : e.writeReg .status v = e := by
  unfold writeReg; split <;> rfl

theorem isBusy_and_isDone (e : Engine) : (e.isBusy && e.isDone) = false := by
  unfold isBusy isDone; split <;> rfl

theorem phase_eq_idle_iff (e : Engine) : e.phase = .idle ↔ e.isBusy = false ∧ e.isDone = false := by
  unfold isBusy isDone; split <;> simp_all

theorem digestReg_eq_zero {e : Engine} (h : ∀ k : Fin 64, e.digest[k] = 0x00#8) (k : Fin 16) :
    e.digestReg k = 0x00000000#32 := by
  have hbyte (j : Nat) (hj : j < 64) : e.digest[j] = 0x00#8 := h ⟨j, hj⟩
  simp [digestReg, hbyte]

/-- Outside DONE with OK nothing of a digest shows. -/
theorem dlen_eq_zero_of_inv {p : Platform} {e : Engine} (h : e.Inv p) (hno : ¬(e.isDone = true ∧ e.result = .ok)) :
    e.dlen = 0#8 := by
  obtain ⟨hok, -⟩ := h
  rw [isDone_iff] at hno
  cases hp : e.phase with
  | idle =>
    obtain ⟨-, -, hdlen, -⟩ := (phaseOk_idle hp).mp hok
    exact hdlen
  | busy c =>
    obtain ⟨-, hdlen, -⟩ := (phaseOk_busy hp).mp hok
    exact hdlen
  | done =>
    cases hr : e.result with
    | ok => exact absurd ⟨hp, hr⟩ hno
    | allocationFailure => exact ((phaseOk_allocationFailure hp hr).mp hok).1
    | unsupportedAlgorithm => exact ((phaseOk_unsupportedAlgorithm hp hr).mp hok).1
    | accessFault => exact ((phaseOk_accessFault hp hr).mp hok).1

/-- In DONE the result is UnsupportedAlgorithm exactly where CMD selects no algorithm. -/
theorem unsupported_iff_of_inv {p : Platform} {e : Engine} (h : e.Inv p) (hp : e.phase = .done) :
    e.result = .unsupportedAlgorithm ↔ (decodedAlg e.cmd).isNone = true := by
  obtain ⟨hok, -⟩ := h
  cases hr : e.result with
  | ok =>
    obtain ⟨a, ha, -⟩ := (phaseOk_ok hp hr).mp hok
    simp [ha]
  | allocationFailure =>
    obtain ⟨-, hsome, -⟩ := (phaseOk_allocationFailure hp hr).mp hok
    simp [← Option.not_isSome, hsome]
  | unsupportedAlgorithm => simp [((phaseOk_unsupportedAlgorithm hp hr).mp hok).2]
  | accessFault =>
    obtain ⟨-, hsome⟩ := (phaseOk_accessFault hp hr).mp hok
    simp [← Option.not_isSome, hsome]

theorem status_of_busy {p : Platform} {e : Engine} (h : e.Inv p) (hb : e.isBusy = true) : e.status = 0x00000001#32 := by
  obtain ⟨c, hp⟩ := e.isBusy_iff.mp hb
  obtain ⟨hres, hdlen, -⟩ := (phaseOk_busy hp).mp h.1
  simp [status, isBusy, isDone, hp, hres, hdlen, Result.code]

end Engine

/-- Settles O7: STATUS field by field, and the phase by its two bits. -/
theorem statusFieldsAndCodes : Obligations.StatusFieldsAndCodes := by
  refine ⟨fun e => ?_, rfl, rfl, rfl, rfl, fun r => by cases r <;> decide⟩
  simp only [show e.readReg .status = e.status from rfl, e.status_busyBit, e.status_doneBit]
  have hboth : ¬(e.isBusy = true ∧ e.isDone = true) := by simpa using e.isBusy_and_isDone
  exact ⟨e.isBusy_iff, e.isDone_iff, e.status_lowReserved, e.status_result, e.status_dlen, e.status_highReserved,
    hboth, e.phase_eq_idle_iff.symm, e.writeReg_status⟩

/-- Settles O37: the invariant, phase by phase and result by result. -/
theorem digestIsShownOnlyAfterOk : Obligations.DigestIsShownOnlyAfterOk := by
  intro s i e hinv he
  obtain ⟨-, -, -, hengines⟩ := hinv
  have h : e.Inv s.plat := hengines e (State.mem_of_engine? he)
  refine ⟨Engine.status_of_busy h, fun hno => ?_, fun hd hr => ?_, fun hd hr => ?_, fun hd => ?_⟩
  · have hdlen := Engine.dlen_eq_zero_of_inv h hno
    exact ⟨hdlen, Engine.digestReg_eq_zero (Engine.digest_eq_zero h.2 hdlen)⟩
  · obtain ⟨a, ha, hlen⟩ := (Engine.phaseOk_ok (e.isDone_iff.mp hd) hr).mp h.1
    obtain ⟨i, hi, rfl⟩ := decodedAlg_eq_some.mp ha
    exact ⟨i, hi, hlen⟩
  · exact decodedAlg_isSome.mp ((Engine.phaseOk_accessFault (e.isDone_iff.mp hd) hr).mp h.1).2
  · rw [Engine.unsupported_iff_of_inv h (e.isDone_iff.mp hd), decodedAlg_isNone]

/-- Settles O15: engine 0 is `Engine.reset 0`, and there is no other. -/
theorem registersAfterReset : Obligations.RegistersAfterReset :=
  ⟨Engine.reset 0, rfl, rfl, rfl, rfl, rfl, rfl, rfl, rfl, rfl, rfl, rfl, zeroDigest_get,
    Engine.digestReg_eq_zero zeroDigest_get⟩

/-! ## The halves of MSG_BASE and MSG_LEN (R26, R27, 20_memory.md R56) -/

@[simp] theorem hiHalf_append (hi lo : Word32) : hiHalf (hi ++ lo) = hi := BitVec.extractLsb'_append_eq_left

@[simp] theorem loHalf_append (hi lo : Word32) : loHalf (hi ++ lo) = lo := BitVec.extractLsb'_append_eq_right

/-- A 64-bit register made of two halves, as a number. -/
theorem toNat_halves (hi lo : Word32) : (hi ++ lo).toNat = hi.toNat * 2 ^ 32 + lo.toNat := by
  rw [BitVec.toNat_append, ← Nat.shiftLeft_add_eq_or_of_lt lo.isLt, Nat.shiftLeft_eq]

theorem hiHalf_toNat (x : Word64) : (hiHalf x).toNat = x.toNat / 2 ^ 32 := by
  have := x.isLt
  rw [hiHalf, BitVec.extractLsb'_toNat, Nat.shiftRight_eq_div_pow]
  omega

theorem loHalf_toNat (x : Word64) : (loHalf x).toNat = x.toNat % 2 ^ 32 := by
  rw [loHalf, BitVec.extractLsb'_toNat, Nat.shiftRight_zero]

theorem toNat_eq_halves (x : Word64) : x.toNat = (hiHalf x).toNat * 2 ^ 32 + (loHalf x).toNat := by
  rw [hiHalf_toNat, loHalf_toNat]; omega

theorem eq_ofNat_of_toNat {x : Word64} {n : Nat} (h : x.toNat = n) : x = BitVec.ofNat 64 n := by simp [← h]

theorem setLoHalf_eq (x : Word64) (v : Word32) :
    setLoHalf x v = BitVec.ofNat 64 (x.toNat / 2 ^ 32 * 2 ^ 32 + v.toNat) :=
  eq_ofNat_of_toNat (by rw [setLoHalf, toNat_halves, hiHalf_toNat])

theorem setHiHalf_eq (x : Word64) (v : Word32) :
    setHiHalf x v = BitVec.ofNat 64 (v.toNat * 2 ^ 32 + x.toNat % 2 ^ 32) :=
  eq_ofNat_of_toNat (by rw [setHiHalf, toNat_halves, loHalf_toNat])

/-- Settles O9: each half is written and read back apart from the other. -/
theorem messageRegistersHaveTwoHalves : Obligations.MessageRegistersHaveTwoHalves := by
  intro e v
  refine ⟨toNat_eq_halves e.msgBase, toNat_eq_halves e.msgLen, fun hb => ⟨?_, ?_, ?_, ?_⟩⟩
  all_goals simp [Engine.writeReg, hb, Engine.readReg, setLoHalf, setHiHalf]

/-! ## Register accesses (R20, R21, R29, R41) -/

/-- The first engine whose block holds an address answers for it (log 16). -/
theorem locateFrom_first {es : List Engine} {i n addr : Nat} {e : Engine} (he : es[n]? = some e)
    (hlo : e.regBase ≤ addr) (hhi : addr < e.regBase + regBlockBytes)
    (hfirst : ∀ m x, m < n → es[m]? = some x → ¬(x.regBase ≤ addr ∧ addr < x.regBase + regBlockBytes)) :
    locateFrom i es addr = some (i + n, addr - e.regBase) := by
  induction es generalizing i n with
  | nil => simp at he
  | cons x rest ih =>
    cases n with
    | zero =>
      obtain rfl : x = e := by simpa using he
      simp [locateFrom, hlo, hhi]
    | succ n =>
      have hx := hfirst 0 x (Nat.zero_lt_succ n) rfl
      have hrest := ih (i := i + 1) (n := n) he fun m y hm hy => hfirst (m + 1) y (by omega) hy
      rw [locateFrom, if_neg hx, hrest, Nat.add_right_comm, Nat.add_assoc]

/-- An aligned 32-bit access at offset `off` of the block of the first engine that holds it. -/
theorem State.target_first {s : State} {i off : Nat} {e : Engine} (he : s.engine? i = some e)
    (hfirst : ∀ j x, j < i → s.engine? j = some x → ¬(x.regBase ≤ e.regBase + off ∧ e.regBase + off < x.regBase + 0x80))
    (hoff : off < 0x80) (hal : off % 4 = 0) : s.target (e.regBase + off) 4 = some (i, Reg.ofOffset off) := by
  have hloc := locateFrom_first (i := 0) he (Nat.le_add_right e.regBase off) (Nat.add_lt_add_left hoff _) hfirst
  have hok : regAccessOk off 4 = true := by simp [regAccessOk, regBlockBytes, hoff, hal]
  simp [State.target, hloc, hok]

theorem Reg.ofOffset_reserved {off : Nat} (hlo : 0x18 ≤ off) (hhi : off ≤ 0x3C) : Reg.ofOffset off = .reserved := by
  unfold Reg.ofOffset
  iterate 6 rw [if_neg (by omega)]
  rw [if_pos (by omega)]

theorem Reg.ofOffset_digest (k : Fin 16) : Reg.ofOffset (0x40 + 4 * k.val) = .digest k := by
  unfold Reg.ofOffset
  iterate 7 rw [if_neg (by omega)]
  rw [show (0x40 + 4 * k.val - 0x40) / 4 = k.val by omega, Fin.ofNat_eq_cast, Fin.cast_val_eq_self]

/-- Settles O5: the first engine that holds the address answers, with the register of the offset. -/
theorem registerMapOfTheBlock : Obligations.RegisterMapOfTheBlock := by
  intro s i off e he hfirst hoff hal
  refine ⟨_, State.target_first he hfirst hoff hal, ?_, ?_, ?_, ?_, ?_, ?_, Reg.ofOffset_reserved, ?_⟩
  case refine_7 => rintro k rfl; exact Reg.ofOffset_digest k
  all_goals rintro rfl; rfl

/-- The step of a host's register write. -/
theorem step_regWrite {s : State} {addr width : Nat} {v : Word32} (h : s.Performs (.regWrite addr width v)) :
    step s = performRegWrite addr width v s.taken := by
  obtain ⟨k, -, -, hstep⟩ := step_performs h
  exact hstep

/-- The step of a host's register read. -/
theorem step_regRead {s : State} {addr width : Nat} (h : s.Performs (.regRead addr width)) :
    step s = performRegRead addr width s.taken := by
  obtain ⟨k, -, -, hstep⟩ := step_performs h
  exact hstep

theorem step_regWrite_cmd {s : State} {addr width j : Nat} {v : Word32} (h : s.Performs (.regWrite addr width v))
    (ht : s.target addr width = some (j, .cmd)) : step s = runCommand v { s.taken with sel := j } := by
  rw [step_regWrite h]
  simp [performRegWrite, ht]

theorem step_regWrite_other {s : State} {addr width i : Nat} {r : Reg} {v : Word32} {e : Engine}
    (h : s.Performs (.regWrite addr width v)) (ht : s.target addr width = some (i, r)) (hr : r ≠ .cmd)
    (he : s.engine? i = some e) : step s = .next (s.taken.setEngine i (e.writeReg r v)) := by
  rw [step_regWrite h]
  simp [performRegWrite, ht, hr, he]

theorem step_regRead_target {s : State} {addr width i : Nat} {r : Reg} {e : Engine}
    (h : s.Performs (.regRead addr width)) (ht : s.target addr width = some (i, r)) (he : s.engine? i = some e) :
    step s = .next (s.taken.record (e.readReg r)) := by
  rw [step_regRead h]
  simp [performRegRead, ht, he]

/-- Settles O4: a step that performs a CMD write runs what the word decodes to. -/
theorem stepRunsTheDecodedCommand : Obligations.StepRunsTheDecodedCommand := by
  intro s addr j v i hev ht hd _
  rw [step_regWrite_cmd hev ht, runCommand_of_ok hd]

/-- Settles O10: register by register, the halves as numbers. -/
theorem messageRegisterWriteIsOneStep : Obligations.MessageRegisterWriteIsOneStep := by
  intro s addr i r v e hev ht he hb hr
  rw [step_regWrite_other hev ht hr he]
  cases r <;> simp [Engine.writeReg, hb, setLoHalf_eq, setHiHalf_eq]

/-- An access that names a register is 32 bits wide, inside a block, and aligned in it. -/
theorem State.target_eq_none {s : State} {addr width : Nat}
    (h : ∀ i e, s.engine? i = some e → e.regBase ≤ addr → addr < e.regBase + 0x80 → width = 4 →
      (addr - e.regBase) % 4 ≠ 0) : s.target addr width = none := by
  cases ht : s.target addr width with
  | none => rfl
  | some ir =>
    obtain ⟨e, he, hlo, hok, -⟩ := State.target_some ht
    obtain ⟨⟨hwidth, hal⟩, hoff⟩ : (width = 4 ∧ (addr - e.regBase) % 4 = 0) ∧ addr - e.regBase < regBlockBytes := by
      simpa only [regAccessOk, Bool.and_eq_true, beq_iff_eq, decide_eq_true_eq] using hok
    exact absurd hal (h ir.1 e he hlo (by unfold regBlockBytes at hoff; omega) hwidth)

/-- Settles O6: in each of the three cases the access names no register. -/
theorem otherRegisterAccessesAreRefused : Obligations.OtherRegisterAccessesAreRefused := by
  intro s addr width v hcase
  have ht : s.target addr width = none := by
    refine State.target_eq_none fun j x hx hlo hhi hwidth => ?_
    obtain hw | hout | ⟨i, e, he, -, -, hmis, hother⟩ := hcase
    · exact absurd hwidth hw
    · exact absurd ⟨hlo, hhi⟩ (hout j x hx)
    · by_cases hj : j = i
      · subst hj
        obtain rfl := Option.some.inj (hx.symm.trans he)
        exact hmis
      · exact absurd ⟨hlo, hhi⟩ (hother j x hj hx)
  refine ⟨fun hev => ?_, fun hev => ?_⟩
  · rw [step_regWrite hev]; simp [performRegWrite, ht]
  · rw [step_regRead hev]; simp [performRegRead, ht]

/-- Replacing an engine by itself changes nothing. -/
theorem State.setEngine_eq_self {s : State} {i : Nat} {e : Engine} (he : s.engine? i = some e) : s.setEngine i e = s := by
  obtain ⟨hlt, rfl⟩ := List.getElem?_eq_some_iff.mp he
  simp [State.setEngine]

theorem Engine.writeReg_reserved (e : Engine) (v : Word32) : e.writeReg .reserved v = e := by
  unfold Engine.writeReg; split <;> rfl

/-- Settles O12: a reserved offset names the register `reserved`, which reads 0 and ignores writes. -/
theorem reservedOffsetsReadZero : Obligations.ReservedOffsetsReadZero := by
  intro s i off v e he hother hlo hhi hal
  have ht : s.target (e.regBase + off) 4 = some (i, .reserved) := by
    rw [State.target_first he (fun j x hj => hother j x (Nat.ne_of_lt hj)) (by omega) hal,
      Reg.ofOffset_reserved hlo hhi]
  refine ⟨fun hev => step_regRead_target hev ht he, fun hev => ?_⟩
  rw [step_regWrite_other hev ht (by decide) he, Engine.writeReg_reserved, State.setEngine_eq_self (by simpa using he)]

end Sys2Proof.Machine
end

section
/-! The statements of spec/20_memory.md: a host access outside memory is refused (R50), and a host write into a running
message is performed and recorded (R69). -/

namespace Sys2Proof.Machine

/-! ## Host accesses of memory (R50, 60_exceptions.md R251) -/

/-- The step of a host's write of a byte of memory. -/
theorem step_memWrite {s : State} {a : Nat} {b : Byte} (h : s.Performs (.memWrite a b)) :
    step s = performMemWrite a b s.taken := by
  obtain ⟨k, -, -, hstep⟩ := step_performs h
  exact hstep

/-- The step of a host's read of a byte of memory. -/
theorem step_memRead {s : State} {a : Nat} (h : s.Performs (.memRead a)) : step s = performMemRead a s.taken := by
  obtain ⟨k, -, -, hstep⟩ := step_performs h
  exact hstep

theorem performMemWrite_inside {s : State} {a : Nat} (b : Byte) (ha : a < memBytes s.plat) :
    performMemWrite a b s = .next (s.hostWrite a b) :=
  if_pos ha

theorem performMemWrite_outside {s : State} {a : Nat} (b : Byte) (ha : memBytes s.plat ≤ a) :
    performMemWrite a b s = .refused (.outsideMemory a) :=
  if_neg (Nat.not_lt.mpr ha)

theorem performMemRead_outside {s : State} {a : Nat} (ha : memBytes s.plat ≤ a) :
    performMemRead a s = .refused (.outsideMemory a) :=
  if_neg (Nat.not_lt.mpr ha)

/-- Settles O14: taking the event off its host's list leaves the platform's memory size as it is. -/
theorem hostMemoryAccessesThatStop : Obligations.HostMemoryAccessesThatStop := by
  intro s a b ha
  have hout : memBytes s.taken.plat ≤ a := by rwa [State.taken_plat]
  exact ⟨fun hev => (step_memWrite hev).trans (performMemWrite_outside b hout),
    fun hev => (step_memRead hev).trans (performMemRead_outside hout)⟩

/-! ## The message race (R69, 60_exceptions.md R250) -/

theorem Engine.messageHolds_iff (e : Engine) (a : Nat) :
    e.messageHolds a = true ↔ ∃ c, e.phase = .busy c ∧ c.base ≤ a ∧ a < c.base + c.len := by
  cases hp : e.phase <;> simp [Engine.messageHolds, Engine.ctx, hp]

/-- A host write can change no field of an engine but `race`. -/
theorem Engine.noteWrite_restore_race (e : Engine) (a : Nat) : { e.noteWrite a with race := e.race } = e := by
  unfold Engine.noteWrite; split <;> rfl

/-- A host write sets `race` exactly on a BUSY engine whose message holds the address. -/
theorem Engine.noteWrite_race_iff (e : Engine) (a : Nat) :
    (e.noteWrite a).race = true ↔ e.race = true ∨ ∃ c, e.phase = .busy c ∧ c.base ≤ a ∧ a < c.base + c.len := by
  rw [Engine.noteWrite_race, Bool.or_eq_true, Engine.messageHolds_iff, or_comm]

/-- A host write changes memory and the engines alone. -/
theorem State.hostWrite_restore (s : State) (a : Nat) (b : Byte) :
    { s.hostWrite a b with mem := s.mem, engines := s.engines } = s := rfl

/-- Settles O34: the step is the host write, which writes the byte and notes the write on every engine. -/
theorem hostWritesRecordRaces : Obligations.HostWritesRecordRaces := by
  intro s a b hev hwf ha
  have hin : a < memBytes s.taken.plat := by rwa [State.taken_plat]
  refine ⟨s.taken.hostWrite a b, (step_memWrite hev).trans (performMemWrite_inside b hin), ?_, ?_, fun a' => ?_, ?_,
    fun i e he => ⟨e.noteWrite a, ?_, e.noteWrite_restore_race a, e.noteWrite_race_iff a⟩⟩
  · simpa using State.hostWrite_restore s.taken a b
  · simpa using Memory.wf_write a b hwf
  · simpa using Memory.read_write a a' b hwf
  · simp
  · simp [he]

end Sys2Proof.Machine
end

section
/-! The statements of spec/30_encoding.md: the command word and its decoder (R70 to R73, R77), and the steps of POLL and of
a host's read of memory (R76). -/

namespace Sys2Proof.Machine

/-! ## The decoder and the encoder (R70 to R73, R77) -/

/-- Settles O3: the encoder's word decodes to its command, and a word that decodes is the encoder's. -/
theorem decodeAndEncodeAgree : Obligations.DecodeAndEncodeAgree := by
  intro i v
  refine ⟨eq_encode_of_decode, ?_⟩
  rintro rfl
  exact decode_encode i

/-- Where RSV = 0 and OP = HASH, the ALG field decides (R77). -/
theorem decode_of_fields {v : Word32} (hrsv : cmdRsv v = 0) (hop : cmdOp v = opHash) :
    decode v = decodeAlg (cmdAlg v) := by
  simp [decode, hrsv, hop]

/-- The ALG field's table, its entries numbered from 1 (R71). -/
theorem decodeAlg_toOption {a : BitVec 4} (hlo : 1 ≤ a.toNat) (hhi : a.toNat ≤ 6) :
    (decodeAlg a).toOption =
      [Instr.hashMd5, .hashSha1, .hashSha224, .hashSha256, .hashSha384, .hashSha512][a.toNat - 1]? := by
  unfold decodeAlg
  generalize a.toNat = n at hlo hhi
  interval_cases n <;> rfl

@[simp] theorem cmdRsv_encode (i : Instr) : cmdRsv (encode i) = 0#24 := by cases i <;> rfl

@[simp] theorem cmdOp_encode (i : Instr) : cmdOp (encode i) = opHash := by cases i <;> rfl

@[simp] theorem cmdAlg_encode (i : Instr) : cmdAlg (encode i) = i.algField := BitVec.extractLsb'_append_eq_right

/-- The ALG fields in use are 1 to 6 (R71). -/
theorem algField_bounds (i : Instr) : 1 ≤ i.algField.toNat ∧ i.algField.toNat ≤ 6 := by cases i <;> decide

/-- A word that decodes has the fields of a command word (R77). -/
theorem fields_of_decode {v : Word32} {i : Instr} (h : decode v = .ok i) :
    cmdRsv v = 0#24 ∧ cmdOp v = opHash ∧ 1 ≤ (cmdAlg v).toNat ∧ (cmdAlg v).toNat ≤ 6 := by
  rw [eq_encode_of_decode h]
  simpa using algField_bounds i

/-- Settles O1: with the fields of a command word the ALG table answers, and only a word with those fields decodes. -/
theorem decoderFollowsTheFieldTable : Obligations.DecoderFollowsTheFieldTable := by
  intro v
  refine ⟨?_, fun hfields => ?_⟩
  · rintro ⟨hrsv, hop, hlo, hhi⟩
    rw [decode_of_fields hrsv hop]
    exact decodeAlg_toOption hlo hhi
  · cases hd : decode v with
    | ok i => exact absurd (fields_of_decode hd) hfields
    | error u => exact ⟨u, rfl⟩

/-- Settles O2: the decoder's answer to each of the ten words. -/
theorem commandWordsOfTheOpcodeMap : Obligations.CommandWordsOfTheOpcodeMap :=
  ⟨decode_encode .hashMd5, decode_encode .hashSha1, decode_encode .hashSha224, decode_encode .hashSha256,
    decode_encode .hashSha384, decode_encode .hashSha512, rfl, rfl, rfl, rfl⟩

/-! ## POLL and a host's read of memory (R76, 20_memory.md R50) -/

theorem performPoll_busy {s : State} {i : Nat} {e : Engine} (k : Nat) (he : s.engine? i = some e)
    (hb : e.isBusy = true) :
    performPoll k i s = .next { s.record e.status with hosts := s.hosts.set k (.poll i :: s.program k) } := by
  simp [performPoll, he, hb]

theorem performPoll_not_busy {s : State} {i : Nat} {e : Engine} (k : Nat) (he : s.engine? i = some e)
    (hb : e.isBusy = false) : performPoll k i s = .next (s.record e.status) := by
  simp [performPoll, he, hb]

theorem performMemRead_inside {s : State} {a : Nat} (ha : a < memBytes s.plat) :
    performMemRead a s = .next (s.record ((Memory.read s.mem a).setWidth 32)) :=
  if_pos ha

/-- A POLL that reads BUSY records STATUS and is still on its host's list. -/
theorem step_poll_busy {s : State} {i : Nat} {e : Engine} (h : s.Performs (.poll i)) (he : s.engine? i = some e)
    (hb : e.isBusy = true) :
    step s = .next { s.taken with recorded := s.recorded ++ [e.status], hosts := s.hosts } := by
  obtain ⟨k, hturn, hev, hstep⟩ := step_performs h
  have hp : performPoll k i s.taken = _ := performPoll_busy k (by simpa using he) hb
  rw [hosts_putBack hturn hev] at hp
  simpa [State.record] using hstep.trans hp

/-- A POLL that does not read BUSY records STATUS and is done. -/
theorem step_poll_not_busy {s : State} {i : Nat} {e : Engine} (h : s.Performs (.poll i)) (he : s.engine? i = some e)
    (hb : e.isBusy = false) : step s = .next { s.taken with recorded := s.recorded ++ [e.status] } := by
  obtain ⟨k, -, -, hstep⟩ := step_performs h
  have hp : performPoll k i s.taken = _ := performPoll_not_busy k (by simpa using he) hb
  simpa [State.record] using hstep.trans hp

/-- A host's read of a byte inside the memory records the byte. -/
theorem step_memRead_inside {s : State} {a : Nat} (h : s.Performs (.memRead a)) (ha : a < memBytes s.plat) :
    step s = .next { s.taken with recorded := s.recorded ++ [(Memory.read s.mem a).setWidth 32] } := by
  have hp : performMemRead a s.taken = _ := performMemRead_inside (by simpa using ha)
  simpa [State.record] using (step_memRead h).trans hp

/-! ## The turns of a POLL that a reset comes between (70_reset_and_hazards.md R287) -/

theorem nextTurn_of_sched {s : State} {turn : Turn} {turns : List Turn} (h : s.sched = turn :: turns) :
    s.nextTurn = turn := by
  simp [State.nextTurn, h]

theorem program_of_hosts {s : State} {k : Nat} {l : List Event} (h : s.hosts[k]? = some l) : s.program k = l := by
  simp [State.program, h]

/-- A host's turn takes the turn and the head of that host's list. -/
theorem taken_of_host_sched {s : State} {k : Nat} {ev : Event} {q : List Event} {turns : List Turn}
    (hs : s.sched = .host k :: turns) (hq : s.hosts[k]? = some (ev :: q)) :
    s.taken = { s with sched := turns, hosts := s.hosts.set k q } := by
  simp [State.taken_host (nextTurn_of_sched hs), hs, program_of_hosts hq]

theorem performs_of_sched {s : State} {k : Nat} {ev : Event} {q : List Event} {turns : List Turn}
    (hs : s.sched = .host k :: turns) (hq : s.hosts[k]? = some (ev :: q)) : s.Performs ev := by
  simp [State.Performs, State.nextEvent, nextTurn_of_sched hs, program_of_hosts hq]

theorem resets_of_sched {s : State} {i : Nat} {turns : List Turn} (hs : s.sched = .platform :: turns)
    (hr : s.resets.head? = some i) : s.Resets i := by
  simp [State.Resets, State.nextReset, nextTurn_of_sched hs, hr]

/-- A host's turn for a POLL that reads BUSY changes only the record and the list of turns. -/
theorem step_poll_busy_of_sched {s : State} {k i : Nat} {e : Engine} {q : List Event} {turns : List Turn}
    (hs : s.sched = .host k :: turns) (hq : s.hosts[k]? = some (.poll i :: q)) (he : s.engine? i = some e)
    (hb : e.isBusy = true) :
    step s = .next { s with sched := turns, recorded := s.recorded ++ [e.status] } := by
  rw [step_poll_busy (performs_of_sched hs hq) he hb, taken_of_host_sched hs hq]

/-- A host's turn for a POLL that does not read BUSY also takes the POLL off that host's list. -/
theorem step_poll_not_busy_of_sched {s : State} {k i : Nat} {e : Engine} {q : List Event} {turns : List Turn}
    (hs : s.sched = .host k :: turns) (hq : s.hosts[k]? = some (.poll i :: q)) (he : s.engine? i = some e)
    (hb : e.isBusy = false) :
    step s = .next { s with sched := turns, hosts := s.hosts.set k q, recorded := s.recorded ++ [e.status] } := by
  rw [step_poll_not_busy (performs_of_sched hs hq) he hb, taken_of_host_sched hs hq]

theorem performReset_of_engine? {s : State} {i : Nat} {e : Engine} (he : s.engine? i = some e) :
    performReset i s = .next (s.setEngine i e.resetEvent) := by
  simp [performReset, he]

/-- The platform's turn for the reset of an engine. -/
theorem step_reset_of_sched {s : State} {i : Nat} {e : Engine} {turns : List Turn}
    (hs : s.sched = .platform :: turns) (hr : s.resets.head? = some i) (he : s.engine? i = some e) :
    step s = .next (({ s with sched := turns, resets := s.resets.tail } : State).setEngine i e.resetEvent) := by
  rw [step_resets (resets_of_sched hs hr), performReset_of_engine? (by simpa using he),
    State.taken_platform (nextTurn_of_sched hs), hs, List.tail_cons]

theorem core_run_succ {s t : State} (n : Nat) (h : step s = .next t) :
    Sys2Proof.core.run (n + 1) s = Sys2Proof.core.run n t := by
  have hcore : Sys2Proof.core.step s = .next t := h
  simp [Host.Core.run, hcore]

/-- STATUS after the reset event (10_state.md R42). -/
@[simp] theorem Engine.resetEvent_status (e : Engine) : e.resetEvent.status = 0x00000000#32 := by
  simp [Engine.status, Engine.isDone, Result.code]

/-- Two turns: the platform resets the engine, and the POLL reads 0 and is done. -/
theorem run_reset_poll {s : State} {k i : Nat} {e : Engine} {q : List Event} {turns : List Turn}
    (he : s.engine? i = some e) (hq : s.hosts[k]? = some (.poll i :: q)) (hr : s.resets.head? = some i)
    (hs : s.sched = .platform :: .host k :: turns) :
    Sys2Proof.core.run 2 s = .next (({ s with
      sched := turns
      hosts := s.hosts.set k q
      resets := s.resets.tail
      recorded := s.recorded ++ [0x00000000#32] } : State).setEngine i e.resetEvent) := by
  have hpoll := step_poll_not_busy_of_sched
    (s := ({ s with sched := .host k :: turns, resets := s.resets.tail } : State).setEngine i e.resetEvent)
    rfl hq (State.engine?_setEngine_self _ he) e.resetEvent_isBusy
  rw [Engine.resetEvent_status] at hpoll
  rw [core_run_succ 1 (step_reset_of_sched hs hr he)]
  exact core_run_succ 0 hpoll

/-- Three turns: a POLL reads BUSY before the platform resets the engine, and reads 0 after it (R287). -/
theorem run_poll_reset_poll {s : State} {k i : Nat} {e : Engine} {q : List Event} {turns : List Turn}
    (he : s.engine? i = some e) (hb : e.isBusy = true) (hq : s.hosts[k]? = some (.poll i :: q))
    (hr : s.resets.head? = some i) (hs : s.sched = .host k :: .platform :: .host k :: turns) :
    Sys2Proof.core.run 3 s = .next (({ s with
      sched := turns
      hosts := s.hosts.set k q
      resets := s.resets.tail
      recorded := s.recorded ++ [e.status, 0x00000000#32] } : State).setEngine i e.resetEvent) := by
  rw [core_run_succ 2 (step_poll_busy_of_sched hs hq he hb)]
  simpa using run_reset_poll
    (s := { s with sched := .platform :: .host k :: turns, recorded := s.recorded ++ [e.status] }) he hq hr rfl

/-- Settles O13: the two steps of POLL, the step of a memory read, and the three turns around a reset. -/
theorem pollAndMemoryReadsAreRecorded : Obligations.PollAndMemoryReadsAreRecorded := by
  refine ⟨fun s i e hev he => ⟨step_poll_busy hev he, step_poll_not_busy hev he⟩,
    fun s a hev ha => step_memRead_inside hev ha, fun s k i e q turns he hb hq hr hs => ?_⟩
  have hbit : e.status.getLsbD 0 = true := e.status_busyBit.trans hb
  exact ⟨_, run_poll_reset_poll he hb hq hr hs, rfl, hbit, State.engine?_setEngine_self _ he, rfl, rfl, rfl, rfl⟩

end Sys2Proof.Machine
end

section
/-! The statements of spec/40_pipeline.md: the block step and the finish step (R95 to R97, R110), acceptance (R90 to
R94), the digest under every interleaving (R98, R105 to R109), and the word loaders and the serializer (R100 to
R104). -/

namespace Sys2Proof.Machine

/-! ## The padded message as the block step makes it (R95, 41_padding.md R120 to R126) -/

/-- Message, terminator and length field fit the padded length. -/
theorem lt_paddedLen (alg : Alg) (L : Nat) : L + lenBytes alg < paddedLen alg L :=
  Nat.lt_mul_div_succ _ (blockBytes_pos alg)

theorem blockCount_eq (alg : Alg) (L : Nat) : blockCount alg L = (L + lenBytes alg) / blockBytes alg + 1 :=
  Nat.mul_div_cancel_left _ (blockBytes_pos alg)

theorem paddedLen_eq_blocks (alg : Alg) (L : Nat) : paddedLen alg L = blockCount alg L * blockBytes alg := by
  rw [blockCount_eq, Nat.mul_comm, paddedLen]

theorem paddedLen_eq_parts (alg : Alg) (L : Nat) :
    paddedLen alg L = L + (1 + (zeroCount alg L + lenBytes alg)) := by
  have hlt := lt_paddedLen alg L
  unfold zeroCount
  omega

theorem padByte_terminator (alg : Alg) (L : Nat) : padByte alg L L = 0x80#8 := by
  simp [padByte]

theorem padByte_zero {alg : Alg} {L k : Nat} (hlo : L < k) (hhi : k < paddedLen alg L - lenBytes alg) :
    padByte alg L k = 0x00#8 := by
  simp [padByte, Nat.ne_of_gt hlo, hhi]

theorem padByte_lenField (alg : Alg) (L j : Nat) :
    padByte alg L (paddedLen alg L - lenBytes alg + j) = lenFieldByte alg L j := by
  have hlt := lt_paddedLen alg L
  simp [padByte, show paddedLen alg L - lenBytes alg + j ≠ L by omega]

/-- After the message, the padded message is its padding bytes one by one (41_padding.md R120, R125). -/
theorem pad_eq_append (alg : Alg) (M : List Byte) :
    pad alg M = M ++ (List.range' M.length (paddedLen alg M.length - M.length)).map (padByte alg M.length) := by
  have hparts := paddedLen_eq_parts alg M.length
  have hzeros : (List.range' (M.length + 1) (zeroCount alg M.length)).map (padByte alg M.length)
      = List.replicate (zeroCount alg M.length) 0x00#8 := by
    refine List.eq_replicate_iff.mpr ⟨by simp, fun b hb => ?_⟩
    obtain ⟨k, hk, rfl⟩ := List.mem_map.mp hb
    obtain ⟨hlo, hhi⟩ := List.mem_range'_1.mp hk
    exact padByte_zero (by omega) (by omega)
  have hlen : (List.range' (M.length + 1 + zeroCount alg M.length) (lenBytes alg)).map (padByte alg M.length)
      = lenField alg M.length := by
    rw [List.range'_eq_map_range, List.map_map, lenField]
    refine List.map_congr_left fun j _ => ?_
    have hpos : paddedLen alg M.length - lenBytes alg + j = M.length + 1 + zeroCount alg M.length + j := by omega
    rw [← padByte_lenField, hpos]
    rfl
  rw [show paddedLen alg M.length - M.length = 1 + (zeroCount alg M.length + lenBytes alg) by omega,
    ← List.range'_append_1, ← List.range'_append_1, List.map_append, List.map_append, hzeros, hlen]
  simp [pad, padByte_terminator]

theorem stepByte_message {len k : Nat} (m : Memory) (alg : Alg) (base : Nat) (hk : k < len) :
    stepByte m alg base len k = Memory.read m (base + k) := if_pos hk

theorem stepByte_padding {len k : Nat} (m : Memory) (alg : Alg) (base : Nat) (hk : len ≤ k) :
    stepByte m alg base len k = padByte alg len k := if_neg (Nat.not_lt.mpr hk)

/-- The padded message of what memory holds, byte by byte as the block step makes it. -/
theorem pad_messageAt (m : Memory) (alg : Alg) (base len : Nat) :
    pad alg (messageAt m base len) = (List.range' 0 (paddedLen alg len)).map (stepByte m alg base len) := by
  have hmsg : (List.range' 0 len).map (stepByte m alg base len) = messageAt m base len := by
    rw [messageAt, List.range_eq_range']
    exact List.map_congr_left fun k hk => stepByte_message m alg base (by simpa using hk)
  have hpad : (List.range' len (paddedLen alg len - len)).map (stepByte m alg base len)
      = (List.range' len (paddedLen alg len - len)).map (padByte alg len) :=
    List.map_congr_left fun k hk => stepByte_padding m alg base (List.mem_range'_1.mp hk).1
  have hle := lt_paddedLen alg len
  rw [pad_eq_append, messageAt_length, ← hmsg, ← hpad, ← List.map_append]
  have hsplit := List.range'_append_1 (s := 0) (m := len) (n := paddedLen alg len - len)
  rw [Nat.zero_add, Nat.add_sub_cancel' (by omega)] at hsplit
  rw [hsplit]

/-- Block `n` of the padded message (41_padding.md R126). -/
theorem padBlock_messageAt {alg : Alg} {len n : Nat} (m : Memory) (base : Nat) (hn : n < blockCount alg len) :
    padBlock alg (messageAt m base len) n =
      (List.range' (n * blockBytes alg) (blockBytes alg)).map (stepByte m alg base len) := by
  have hfit : (n + 1) * blockBytes alg ≤ paddedLen alg len := by
    rw [paddedLen_eq_blocks]
    exact Nat.mul_le_mul_right _ hn
  rw [Nat.succ_mul] at hfit
  rw [padBlock, pad_messageAt, ← List.map_drop, ← List.map_take, List.drop_range',
    List.take_range'_of_length_ge (by omega)]
  simp

theorem pad_length (alg : Alg) (M : List Byte) : (pad alg M).length = paddedLen alg M.length := by
  have hlt := lt_paddedLen alg M.length
  rw [pad_eq_append, List.length_append, List.length_map, List.length_range']
  omega

/-- The digest is taken from the state after the message's last block (R98). -/
theorem digestFn_eq (alg : Alg) (M : List Byte) :
    digestFn alg M = digestOf (hashBlocks alg M (blockCount alg M.length)) := by
  simp [digestFn, digestOf, pad_length, blockCount]

/-! ## The engine's steps, exactly (R95 to R97, R110) -/

/-- The message bytes of the block that a step of context `c` would gather are all readable. -/
def BlockReadable (p : Platform) (c : Ctx) : Prop :=
  ∀ k, c.blk * blockBytes c.alg ≤ k → k < (c.blk + 1) * blockBytes c.alg → k < c.len →
    readable p (c.base + k) = true

theorem gatherBlock_of_readable {p : Platform} (m : Memory) {c : Ctx} (h : BlockReadable p c) :
    gatherBlock p m c =
      { bytes := (List.range' (c.blk * blockBytes c.alg) (blockBytes c.alg)).map (stepByte m c.alg c.base c.len)
        reads := (List.range' (c.blk * blockBytes c.alg)
          (min (blockBytes c.alg) (c.len - c.blk * blockBytes c.alg))).map (c.base + ·)
        refusedAt := none } := by
  refine gather_of_readable fun j hlo hhi hlen => h j hlo ?_ hlen
  rwa [Nat.succ_mul]

/-- A loop that met no refused read had none to meet. -/
theorem readable_of_gather {p : Platform} {m : Memory} {alg : Alg} {base len k n j : Nat}
    (h : (gather p m alg base len k n).refusedAt = none) (hlo : k ≤ j) (hhi : j < k + n) (hlen : j < len) :
    readable p (base + j) = true := by
  induction n generalizing k with
  | zero => omega
  | succ n ih =>
    unfold gather at h
    cases hr : readable p (base + k) with
    | false => simp [show k < len by omega, memRead_of_refused hr] at h
    | true =>
      by_cases hj : j = k
      · rwa [hj]
      · simp only [show k < len by omega, if_true, memRead_of_readable hr] at h
        exact ih h (by omega) (by omega)

/-- The lowest refused byte of the block ends the loop (R96). -/
theorem gatherBlock_of_refused {p : Platform} {m : Memory} {c : Ctx} {k : Nat} (hlo : c.blk * blockBytes c.alg ≤ k)
    (hhi : k < (c.blk + 1) * blockBytes c.alg) (hlen : k < c.len) (hk : readable p (c.base + k) = false)
    (hbelow : ∀ j, c.blk * blockBytes c.alg ≤ j → j < k → readable p (c.base + j) = true) :
    (gatherBlock p m c).refusedAt = some (c.base + k) ∧
      (gatherBlock p m c).reads =
        (List.range' (c.blk * blockBytes c.alg) (k - c.blk * blockBytes c.alg)).map (c.base + ·) := by
  rw [Nat.succ_mul] at hhi
  cases hg : (gatherBlock p m c).refusedAt with
  | none => simp [readable_of_gather hg hlo hhi hlen] at hk
  | some a =>
    obtain ⟨j, hjlo, -, -, rfl, hj, hjbelow, hreads⟩ := gather_refused hg
    obtain hlt | rfl | hgt := Nat.lt_trichotomy j k
    · simp [hbelow j hjlo hlt] at hj
    · exact ⟨rfl, hreads⟩
    · simp [hjbelow k hlo hgt] at hk

/-- Settles O26: a block step whose reads are all answered takes memory's bytes and the padding after them. -/
theorem blockStepCompressesTheNextBlock : Obligations.BlockStepCompressesTheNextBlock := by
  intro s i e c he hp hlt hr
  rw [engineStep_block he hp hlt, blockStep, gatherBlock_of_readable s.mem hr]
  simp [State.log, State.setEngine, Ctx.advance, stepByte, List.range'_eq_map_range, Function.comp_def]

/-- Settles O27: the loop ends at the lowest refused byte, and the error is raised with its address. -/
theorem refusedReadEndsTheCommand : Obligations.RefusedReadEndsTheCommand := by
  intro s i k e c he hp hlt hlo hhi hlen hk hbelow
  obtain ⟨hat, hreads⟩ := gatherBlock_of_refused (m := s.mem) hlo hhi hlen hk hbelow
  rw [engineStep_block he hp hlt]
  simp [blockStep, hat, hreads, State.raise, State.log, State.setEngine, Engine.raise, zeroDigest,
    List.range'_eq_map_range, Function.comp_def]

theorem digestOf_getD {h : HState} {k : Nat} (hk : k < digestBytes h.alg) (b : Byte) :
    (digestOf h).getD k b = (serialize h).getD k b := by
  simp [digestOf, List.getD_eq_getElem?_getD, List.getElem?_take_of_lt hk]

/-- Settles O28: without a race the bytes written are the first DL(alg) of the serialized state. -/
theorem finishStepWritesTheDigest : Obligations.FinishStepWritesTheDigest := by
  intro s i e c he hp hblk hrace
  have hD : writeDigest e.digest (digestOf c.h) = Vector.ofFn fun k =>
      if k.val < digestBytes c.alg then (serialize c.h).getD k.val 0#8 else e.digest[k] := by
    unfold writeDigest
    congr 1
    funext k
    rw [digestOf_length]
    exact ite_congr rfl (fun hk => digestOf_getD hk _) fun _ => rfl
  rw [engineStep_finish he hp hblk.ge, finishStep_eq, ← hD]
  simp [hrace, finishBytes]

/-- Settles O30: the three cases of an engine's step. -/
theorem oneEngineStepIsEnabled : Obligations.OneEngineStepIsEnabled := by
  intro s i e he
  refine ⟨fun hidle => engineStep_of_not_busy he ?_, fun c hp => ?_⟩
  · obtain hp | hp := hidle <;> simp [Engine.isBusy, hp]
  by_cases hlt : c.blk < c.nblk
  · refine ⟨_, engineStep_engine?_block he hp hlt, fun _ => ?_, fun hle => absurd hlt (Nat.not_lt.mpr hle)⟩
    cases hg : (gatherBlock s.plat s.mem c).refusedAt with
    | some a =>
      rw [Engine.afterBlock_refused c hg]
      exact .inr ⟨rfl, rfl⟩
    | none =>
      rw [Engine.afterBlock_got c hg]
      exact .inl ⟨_, rfl, rfl, rfl, advance_alg c _, rfl, rfl⟩
  · exact ⟨_, engineStep_engine?_finish he hp (Nat.not_lt.mp hlt), fun h => absurd h hlt, fun _ => ⟨rfl, rfl⟩⟩

/-! ## Acceptance, check by check (R90, R92, R94, 60_exceptions.md R246) -/

theorem State.afterDraw_eq (s : State) :
    s.afterDraw = { s with draws := if s.plat.allocMayFail = true then s.draws + 1 else s.draws } := by
  unfold State.afterDraw
  split <;> rfl

theorem drawAllocFail_iff (s : State) :
    drawAllocFail s = true ↔ s.plat.allocMayFail = true ∧ Config.allocDraw s.draws = true :=
  Bool.and_eq_true_iff

section

variable {s : State} {e : Engine} (i : Nat) (v : Word32) (a : Alg)

theorem accept_drawFails (hd : drawAllocFail s = true) :
    accept s i e v (some a) = .next (s.afterDraw.raise i (e.beginCommand v) .allocationFailure .nothing) := by
  simp [accept, hd]

theorem accept_rangeFault (hd : drawAllocFail s = false) (hr : memBytes s.plat < e.msgBase.toNat + e.msgLen.toNat) :
    accept s i e v (some a) = .next (s.afterDraw.raise i (e.beginCommand v) .accessFault .range) := by
  simp [accept, hd, hr, Engine.baseOperand, Engine.lenOperand]

theorem accept_sideEffect (hd : drawAllocFail s = false) (hr : e.msgBase.toNat + e.msgLen.toNat ≤ memBytes s.plat)
    (hse : meetsSideEffect s.plat e.msgBase.toNat e.msgLen.toNat = true) :
    accept s i e v (some a) = .refused (.sideEffectMemory e.msgBase.toNat e.msgLen.toNat) := by
  simp [accept, hd, Nat.not_lt.mpr hr, hse, Engine.baseOperand, Engine.lenOperand]

theorem accept_entersBusy (hd : drawAllocFail s = false) (hr : e.msgBase.toNat + e.msgLen.toNat ≤ memBytes s.plat)
    (hse : meetsSideEffect s.plat e.msgBase.toNat e.msgLen.toNat = false) :
    accept s i e v (some a) = .next (s.afterDraw.setEngine i ((e.beginCommand v).enterBusy a)) := by
  simp [accept, hd, Nat.not_lt.mpr hr, hse, Engine.baseOperand, Engine.lenOperand]

end

/-- Settles O23: the checks in the order of R246. -/
theorem acceptanceChecksInOrder : Obligations.AcceptanceChecksInOrder := by
  intro i s e he hb
  rw [exec_eq, writeCmd_free _ _ he hb]
  cases hd : drawAllocFail s with
  | true =>
    have hdraw := (drawAllocFail_iff s).mp hd
    rw [accept_drawFails _ _ _ hd, if_pos hdraw, State.afterDraw_eq, if_pos hdraw.1]
    rfl
  | false =>
    have hdraw := mt (drawAllocFail_iff s).mpr (ne_true_of_eq_false hd)
    rw [if_neg hdraw]
    by_cases hr : 2 ^ s.plat.addrW < e.msgBase.toNat + e.msgLen.toNat
    · rw [accept_rangeFault _ _ _ hd hr, if_pos hr, State.afterDraw_eq]
      rfl
    rw [if_neg hr]
    cases hse : meetsSideEffect s.plat e.msgBase.toNat e.msgLen.toNat with
    | true => rw [accept_sideEffect _ _ _ hd (Nat.not_lt.mp hr) hse, if_pos rfl]
    | false =>
      rw [accept_entersBusy _ _ _ hd (Nat.not_lt.mp hr) hse, if_neg Bool.false_ne_true, State.afterDraw_eq]
      rfl

theorem State.log_nil (s : State) : s.log [] = s := by
  simp [State.log]

/-- What every acceptance of a command does to the machine: a draw where one may fail, its engine replaced by one that
holds the word and the same operands, and at most one error raised. -/
theorem accept_frame {s t : State} {i : Nat} {e : Engine} {v : Word32} {a : Alg}
    (h : accept s i e v (some a) = .next t) :
    ∃ e' l, t = (s.afterDraw.setEngine i e').log l ∧ (l = [] ∨ ∃ r info, l = [.raised i r info]) ∧
      e'.regBase = e.regBase ∧ e'.msgBase = e.msgBase ∧ e'.msgLen = e.msgLen ∧ e'.cmd = v := by
  obtain ⟨hnone, -⟩ | ⟨x, -, ⟨-, rfl⟩ | ⟨-, -, rfl⟩ | ⟨-, -, -, rfl⟩⟩ := accept_cases h
  · cases hnone
  · exact ⟨_, _, rfl, .inr ⟨_, _, rfl⟩, rfl, rfl, rfl, rfl⟩
  · exact ⟨_, _, rfl, .inr ⟨_, _, rfl⟩, rfl, rfl, rfl, rfl⟩
  · exact ⟨_, [], (State.log_nil _).symm, .inl rfl, rfl, rfl, rfl, rfl⟩

theorem State.afterDraw_draws_cases (s : State) :
    s.afterDraw.draws = s.draws ∨ (s.plat.allocMayFail = true ∧ s.afterDraw.draws = s.draws + 1) := by
  rw [State.afterDraw_draws]
  by_cases h : s.plat.allocMayFail = true <;> simp [h]

/-- Settles O25: in BUSY nothing changes, outside it acceptance has its frame. -/
theorem commandsLeaveTheRestAlone : Obligations.CommandsLeaveTheRestAlone := by
  intro i s t h
  rw [exec_eq] at h
  obtain ⟨e, he, ⟨hb, rfl⟩ | ⟨hb, ha⟩⟩ := writeCmd_cases h
  · exact ⟨rfl, rfl, rfl, rfl, rfl, rfl, fun _ => rfl, fun _ _ => rfl, .inl rfl, .inl rfl, e, e, he, he, rfl, rfl, rfl,
      fun _ => rfl, fun hfree => by simp [hb] at hfree⟩
  · obtain ⟨e', l, rfl, hl, hbase, hmsg, hlen, hcmd⟩ := accept_frame ha
    have hself : s.afterDraw.engine? s.sel = some e := by simpa using he
    have htrace : s.trace ++ l = s.trace ∨ ∃ r info, s.trace ++ l = s.trace ++ [.raised s.sel r info] := by
      obtain rfl | ⟨r, info, rfl⟩ := hl
      · exact .inl (List.append_nil _)
      · exact .inr ⟨r, info, rfl⟩
    refine ⟨by simp, by simp, by simp, by simp, by simp, by simp, fun a => by simp, fun j hj => by simp [hj.symm],
      by simpa using htrace, s.afterDraw_draws_cases, e, e', he, State.engine?_setEngine_self e' hself, hbase, hmsg,
      hlen, fun hbusy => by simp [hb] at hbusy, fun _ => hcmd⟩

/-! ## What one step of the machine can make of an engine -/

/-- What acceptance can make of an engine, for a word that selects an algorithm or none (R90). -/
inductive Engine.Accepted (p : Platform) (e : Engine) (v : Word32) : Option Alg → Engine → Prop where
  | undefined : Accepted p e v none ((e.beginCommand v).raise .unsupportedAlgorithm)
  | drawFails (a : Alg) (hmay : p.allocMayFail = true) :
      Accepted p e v (some a) ((e.beginCommand v).raise .allocationFailure)
  | rangeFault (a : Alg) (hr : memBytes p < e.msgBase.toNat + e.msgLen.toNat) :
      Accepted p e v (some a) ((e.beginCommand v).raise .accessFault)
  | entersBusy (a : Alg) (hr : e.msgBase.toNat + e.msgLen.toNat ≤ memBytes p) :
      Accepted p e v (some a) ((e.beginCommand v).enterBusy a)

/-- What a step other than a host's write of memory can make of engine `i`, seen as `e` before it. -/
inductive State.Moves (s : State) (i : Nat) (e : Engine) : Engine → Prop where
  | still : s.Moves i e e
  | block (c : Ctx) (hp : e.phase = .busy c) (hlt : c.blk < c.nblk) :
      s.Moves i e (e.afterBlock c (gatherBlock s.plat s.mem c))
  | finish (c : Ctx) (hp : e.phase = .busy c) (hle : c.nblk ≤ c.blk) :
      s.Moves i e (e.afterFinish c (finishBytes s e c))
  | reset (hr : s.Resets i) : s.Moves i e e.resetEvent
  | write (addr width : Nat) (v : Word32) (r : Reg) (hev : s.Performs (.regWrite addr width v))
      (htgt : s.target addr width = some (i, r)) (hfree : e.isBusy = false) : s.Moves i e (e.writeReg r v)
  | accept (addr width : Nat) (v : Word32) (e' : Engine) (hev : s.Performs (.regWrite addr width v))
      (htgt : s.target addr width = some (i, .cmd)) (hfree : e.isBusy = false)
      (hacc : e.Accepted s.plat v (decodedAlg v) e') : s.Moves i e e'

/-- Acceptance replaces the engine itself. -/
theorem accept_engines {s t : State} {i : Nat} {e : Engine} {v : Word32} {alg : Option Alg}
    (h : accept s i e v alg = .next t) : ∃ e', t.engines = s.engines.set i e' ∧ e.Accepted s.plat v alg e' := by
  obtain ⟨rfl, rfl⟩ | ⟨a, rfl, ⟨hd, rfl⟩ | ⟨-, hr, rfl⟩ | ⟨-, hr, -, rfl⟩⟩ := accept_cases h
  · exact ⟨_, rfl, .undefined⟩
  · exact ⟨_, by simp, .drawFails a ((drawAllocFail_iff s).mp hd).1⟩
  · exact ⟨_, by simp, .rangeFault a hr⟩
  · exact ⟨_, by simp, .entersBusy a hr⟩

/-- A replacement of engine `j` makes of engine `i` the new one if it is that engine, and leaves it alone otherwise. -/
theorem State.Moves.of_set {s t : State} {i j : Nat} {e x x' : Engine} (hx : s.engine? j = some x)
    (ht : t.engines = s.engines.set j x') (he : s.engine? i = some e) (hmove : j = i → e = x → s.Moves i e x') :
    ∃ e', t.engine? i = some e' ∧ s.Moves i e e' := by
  by_cases hj : j = i
  · obtain rfl := hj
    exact ⟨x', State.engine?_set_self hx ht, hmove rfl (Option.some.inj (he.symm.trans hx))⟩
  · exact ⟨e, (State.engine?_set_ne (Ne.symm hj) ht).trans he, .still⟩

theorem engineStep_moves {s : State} {i : Nat} {e : Engine} (j : Nat) (he : s.engine? i = some e) :
    ∃ e', (engineStep s.taken j).engine? i = some e' ∧ s.Moves i e e' := by
  obtain heq | ⟨x, c, hx, hp, ⟨hlt, heq⟩ | ⟨hle, heq⟩⟩ := engineStep_engines_cases s.taken j
  · exact ⟨e, by rw [heq, State.engine?_taken, he], .still⟩
  · rw [State.engine?_taken] at hx
    rw [State.taken_plat, State.taken_mem, State.taken_engines] at heq
    exact State.Moves.of_set hx heq he (by rintro - rfl; exact .block c hp hlt)
  · rw [State.engine?_taken] at hx
    have hbytes : finishBytes s.taken x c = finishBytes s x c := by simp [finishBytes]
    rw [hbytes, State.taken_engines] at heq
    exact State.Moves.of_set hx heq he (by rintro - rfl; exact .finish c hp hle)

theorem performRegWrite_moves {s t : State} {i addr width : Nat} {v : Word32} {e : Engine}
    (hev : s.Performs (.regWrite addr width v)) (h : performRegWrite addr width v s.taken = .next t)
    (he : s.engine? i = some e) : ∃ e', t.engine? i = some e' ∧ s.Moves i e e' := by
  obtain ⟨j, r, x, htgt, hx', hcases⟩ := performRegWrite_cases h
  rw [State.target_taken] at htgt
  have hx : s.engine? j = some x := (State.engine?_taken s j).symm.trans hx'
  obtain ⟨rfl, hrun⟩ | ⟨-, rfl⟩ := hcases
  · rw [runCommand_eq] at hrun
    obtain ⟨y, hy, ⟨-, rfl⟩ | ⟨hfree, hacc⟩⟩ := writeCmd_cases hrun
    · exact ⟨e, (State.engine?_taken s i).trans he, .still⟩
    · obtain rfl : x = y := Option.some.inj (hx'.symm.trans hy)
      obtain ⟨x', heq, hacc'⟩ := accept_engines hacc
      rw [State.taken_plat] at hacc'
      refine State.Moves.of_set hx (by simpa using heq) he ?_
      rintro rfl rfl
      exact .accept addr width v x' hev htgt hfree hacc'
  · have heq : (s.taken.setEngine j (x.writeReg r v)).engines = s.engines.set j (x.writeReg r v) := by simp
    refine State.Moves.of_set hx heq he ?_
    rintro rfl rfl
    cases hb : e.isBusy with
    | true => rw [Engine.writeReg_of_busy e r v hb]; exact .still
    | false => exact .write addr width v r hev htgt hb

theorem perform_moves {s t : State} {i k : Nat} {ev : Event} {e : Engine} (hev : s.Performs ev)
    (h : perform k ev s.taken = .next t) (he : s.engine? i = some e) :
    (∃ a b, s.Performs (.memWrite a b) ∧ t = s.taken.hostWrite a b) ∨
      ∃ e', t.engine? i = some e' ∧ s.Moves i e e' := by
  have htaken : s.taken.engine? i = some e := (State.engine?_taken s i).trans he
  cases ev with
  | regWrite addr width v => exact .inr (performRegWrite_moves hev h he)
  | regRead addr width =>
    obtain ⟨j, r, x, -, -, rfl⟩ := performRegRead_cases h
    exact .inr ⟨e, htaken, .still⟩
  | poll j =>
    obtain ⟨x, -, ⟨-, rfl⟩ | ⟨-, rfl⟩⟩ := performPoll_cases h
    · exact .inr ⟨e, htaken, .still⟩
    · exact .inr ⟨e, htaken, .still⟩
  | memWrite a b => exact .inl ⟨a, b, hev, (performMemWrite_cases h).2⟩
  | memRead a =>
    obtain ⟨-, rfl⟩ := performMemRead_cases h
    exact .inr ⟨e, htaken, .still⟩

/-- What a step can make of the engine `i`: a host's write of memory is performed, or memory stays and the engine makes
one of its moves. -/
theorem step_moves {s t : State} {i : Nat} {e : Engine} (h : step s = .next t) (he : s.engine? i = some e) :
    (∃ a b, s.Performs (.memWrite a b) ∧ t = s.taken.hostWrite a b) ∨
      (t.mem = s.mem ∧ ∃ e', t.engine? i = some e' ∧ s.Moves i e e') := by
  obtain hsame | hwrite := step_sameHardware_or_hostWrite h
  · obtain ⟨j, -, rfl⟩ | rfl | ⟨k, ev, -, hev, hp⟩ | ⟨j, hr, hp⟩ := step_cases h
    · exact .inr ⟨hsame.mem, engineStep_moves j he⟩
    · exact .inr ⟨hsame.mem, e, (State.engine?_taken s i).trans he, .still⟩
    · exact (perform_moves hev hp he).imp_right fun hmove => ⟨hsame.mem, hmove⟩
    · obtain ⟨x, hx, rfl⟩ := performReset_cases hp
      rw [State.engine?_taken] at hx
      have heq : (s.taken.setEngine j x.resetEvent).engines = s.engines.set j x.resetEvent := by simp
      exact .inr ⟨hsame.mem, State.Moves.of_set hx heq he (by rintro rfl rfl; exact .reset hr)⟩
  · exact .inl hwrite

/-- No step makes an engine. -/
theorem engine?_of_step {s t : State} {i : Nat} {e' : Engine} (h : step s = .next t) (he' : t.engine? i = some e') :
    ∃ e, s.engine? i = some e := by
  obtain ⟨-, hbases, -⟩ := parametersAndMemoryStayPut s t h
  have hlen : t.engines.length = s.engines.length := by simpa using congrArg List.length hbases
  obtain ⟨hlt, -⟩ := List.getElem?_eq_some_iff.mp he'
  exact ⟨_, List.getElem?_eq_getElem (hlen ▸ hlt)⟩

theorem Engine.Accepted.result_ne_allocationFailure {p : Platform} {e e' : Engine} {v : Word32} {alg : Option Alg}
    (hno : p.allocMayFail = false) (h : e.Accepted p v alg e') : e'.result ≠ .allocationFailure := by
  cases h with
  | undefined => exact Result.noConfusion
  | drawFails a hmay => simp [hno] at hmay
  | rangeFault => exact Result.noConfusion
  | entersBusy => exact Result.noConfusion

theorem afterBlock_result (e : Engine) (c : Ctx) (g : Gathered) :
    (e.afterBlock c g).result = .accessFault ∨ (e.afterBlock c g).result = e.result := by
  cases hg : g.refusedAt with
  | some a => rw [Engine.afterBlock_refused c hg]; exact .inl rfl
  | none => rw [Engine.afterBlock_got c hg]; exact .inr rfl

/-- Settles O41: a failed draw is the one move that makes the result. -/
theorem allocationNeverFailsHere : Obligations.AllocationNeverFailsHere := by
  intro s t i e' hno h he' hres
  obtain ⟨e, he⟩ := engine?_of_step h he'
  refine ⟨e, he, ?_⟩
  obtain ⟨a, b, -, rfl⟩ | ⟨-, x, hx, hmove⟩ := step_moves h he
  · obtain rfl : e.noteWrite a = e' := by simpa [he] using he'
    simpa using hres
  obtain rfl : x = e' := Option.some.inj (hx.symm.trans he')
  cases hmove with
  | still => exact hres
  | block c =>
    obtain hr | hr := afterBlock_result e c (gatherBlock s.plat s.mem c)
    · cases hr.symm.trans hres
    · exact hr.symm.trans hres
  | finish c => cases hres
  | reset => cases hres
  | write addr width v r => simpa using hres
  | accept addr width v _ _ _ _ hacc => exact absurd hres (hacc.result_ne_allocationFailure hno)

/-! ## A command computing its digest, under every interleaving (R98, R105) -/

namespace Engine.Computes

variable {p : Platform} {m : Memory} {e : Engine} {c : Ctx} {alg : Alg} {M : List Byte}

theorem message_length (h : e.Computes m c alg M) : M.length = c.len := by
  rw [← h.message, messageAt_length]

/-- What a block step gathers is the next block of the padded message, or it meets a refused byte of the message. -/
theorem gatherBlock_cases (h : e.Computes m c alg M) (hlt : c.blk < c.nblk) :
    ((gatherBlock p m c).refusedAt = none ∧ (gatherBlock p m c).bytes = padBlock alg M c.blk) ∨
      ∃ a k, (gatherBlock p m c).refusedAt = some a ∧ k < c.len ∧ readable p (c.base + k) = false := by
  cases hg : (gatherBlock p m c).refusedAt with
  | some a =>
    obtain ⟨k, -, -, hk, -, hr, -⟩ := gather_refused hg
    exact .inr ⟨a, k, rfl, hk, hr⟩
  | none =>
    have hread : BlockReadable p c := fun k hlo hhi hk =>
      readable_of_gather hg hlo (by rwa [Nat.succ_mul] at hhi) hk
    obtain ⟨-, -, -, rfl, rfl, hcount, -, -⟩ := h
    exact .inl ⟨rfl, by rw [gatherBlock_of_readable m hread, padBlock_messageAt m c.base (hcount ▸ hlt)]⟩

/-- A block step takes the computation one block further. -/
theorem advance {g : Gathered} (h : e.Computes m c alg M) (hlt : c.blk < c.nblk) (hg : g.refusedAt = none)
    (hB : g.bytes = padBlock alg M c.blk) : (e.afterBlock c g).Computes m (c.advance g.bytes) alg M := by
  rw [Engine.afterBlock_got c hg]
  exact ⟨rfl, h.noRace, h.clear, (advance_alg c _).trans h.algIs, h.message, h.count, hlt,
    by rw [Ctx.advance_h, hB, h.hash]; rfl⟩

/-- With every block done, the finish step writes the digest of the message. -/
theorem finish (h : e.Computes m c alg M) (hblk : c.blk = c.nblk) :
    (e.afterFinish c (digestOf c.h)).Finished alg M := by
  have hdigest : digestOf c.h = digestFn alg M := by
    rw [digestFn_eq, h.message_length, h.hash, hblk, h.count]
  have hlen : (digestFn alg M).length = digestBytes alg := by
    rw [← hdigest, digestOf_length, ← h.algIs]; rfl
  refine ⟨rfl, rfl, ?_, fun k => ?_⟩
  · exact (digestBytes_ofNat c.alg).trans (congrArg digestBytes h.algIs)
  · exact (writeDigest_get e.digest (digestOf c.h) k).trans (by rw [hdigest, hlen, h.clear, zeroDigest_get])

/-- A host's write outside the message leaves the computation as it is. -/
theorem write_outside {a : Nat} (b : Byte) (hm : Memory.wf m = true) (h : e.Computes m c alg M)
    (ha : ¬(c.base ≤ a ∧ a < c.base + c.len)) : (e.noteWrite a).Computes (Memory.write m a b) c alg M := by
  have hmsg : messageAt (Memory.write m a b) c.base c.len = messageAt m c.base c.len :=
    messageAt_congr fun k hk => by rw [Memory.read_write a _ b hm, if_neg (by omega)]
  have hnone : e.noteWrite a = e := by
    simp [Engine.noteWrite, Engine.messageHolds, (e.ctx_eq_some c).mpr h.phase, ha]
  rw [hnone]
  exact { h with message := hmsg.trans h.message }

theorem finishBytes_eq (s : State) (h : e.Computes m c alg M) : finishBytes s e c = digestOf c.h := by
  simp [finishBytes, h.noRace]

end Engine.Computes

/-- A write into the message of a BUSY engine is recorded, and its phase stays. -/
theorem Engine.noteWrite_race_of_message {e : Engine} {c : Ctx} {a : Nat} (hp : e.phase = .busy c) (hlo : c.base ≤ a)
    (hhi : a < c.base + c.len) : (e.noteWrite a).race = true :=
  (e.noteWrite_race_iff a).mpr (.inr ⟨c, hp, hlo, hhi⟩)

/-- Settles O43: a write of memory hits the message or not; of the engine's moves, BUSY allows a block step, the finish
step and the reset. -/
theorem everyStepKeepsTheComputation : Obligations.EveryStepKeepsTheComputation := by
  intro s t i e c alg M hwf he hcomp h
  have hbusy : e.isBusy = true := e.isBusy_of_phase c hcomp.phase
  obtain ⟨a, b, hev, rfl⟩ | ⟨hmem, e', he', hmove⟩ := step_moves h he
  · refine ⟨e.noteWrite a, by simp [he], ?_⟩
    by_cases ha : c.base ≤ a ∧ a < c.base + c.len
    · exact .inr (.inr (.inr (.inr ⟨a, b, hev, ha.1, ha.2, Engine.noteWrite_race_of_message hcomp.phase ha.1 ha.2,
        e.noteWrite_phase a⟩)))
    · refine .inl ⟨c, ?_, rfl, rfl, rfl, .inl rfl⟩
      simpa using hcomp.write_outside b hwf ha
  refine ⟨e', he', ?_⟩
  rw [hmem]
  cases hmove with
  | still => exact .inl ⟨c, hcomp, rfl, rfl, rfl, .inl rfl⟩
  | block c' hp hlt =>
    obtain rfl : c = c' := Phase.busy.inj (hcomp.phase.symm.trans hp)
    obtain ⟨hg, hB⟩ | ⟨a, k, hg, hk, hr⟩ := hcomp.gatherBlock_cases (p := s.plat) hlt
    · exact .inl ⟨_, hcomp.advance hlt hg hB, rfl, rfl, rfl, .inr rfl⟩
    · rw [Engine.afterBlock_refused c hg]
      exact .inr (.inr (.inl ⟨rfl, rfl, k, hk, hr⟩))
  | finish c' hp hle =>
    obtain rfl : c = c' := Phase.busy.inj (hcomp.phase.symm.trans hp)
    have hblk := Nat.le_antisymm hcomp.blkLe hle
    rw [hcomp.finishBytes_eq]
    exact .inr (.inl ⟨hblk, hcomp.finish hblk⟩)
  | reset hr => exact .inr (.inr (.inr (.inl ⟨hr, rfl⟩)))
  | write _ _ _ _ _ _ hfree => simp [hbusy] at hfree
  | accept _ _ _ _ _ _ hfree => simp [hbusy] at hfree

/-! ## From acceptance to the digest (R98, R105, R106, R108) -/

/-- From `s` to `t` only engine `i`, the turns, the log and the count of free values may differ. -/
structure State.OnlyMoves (i : Nat) (s t : State) : Prop where
  plat : t.plat = s.plat
  mem : t.mem = s.mem
  hosts : t.hosts = s.hosts
  resets : t.resets = s.resets
  recorded : t.recorded = s.recorded
  others : ∀ j, j ≠ i → t.engine? j = s.engine? j

namespace State.OnlyMoves

variable {i : Nat} {s t u : State}

theorem refl (i : Nat) (s : State) : s.OnlyMoves i s := ⟨rfl, rfl, rfl, rfl, rfl, fun _ _ => rfl⟩

theorem trans (h : s.OnlyMoves i t) (h' : t.OnlyMoves i u) : s.OnlyMoves i u :=
  ⟨h'.plat.trans h.plat, h'.mem.trans h.mem, h'.hosts.trans h.hosts, h'.resets.trans h.resets,
    h'.recorded.trans h.recorded, fun j hj => (h'.others j hj).trans (h.others j hj)⟩

/-- A turn of the engine. -/
theorem engineStep (i : Nat) (s : State) (turns : List Turn) :
    s.OnlyMoves i (engineStep { s with sched := turns } i) := by
  obtain ⟨hplat, hmem, -, hhosts, hresets, -, hrec, hothers, -⟩ :=
    engineStepsLeaveTheRestAlone { s with sched := turns } i
  exact ⟨hplat, hmem, hhosts, hresets, hrec, hothers⟩

end State.OnlyMoves

/-- The next turn on the list is an engine's. -/
theorem step_engine_of_sched {s : State} {i : Nat} {turns : List Turn} (hs : s.sched = .engine i :: turns) :
    step s = .next (engineStep { s with sched := turns } i) := by
  have ht := nextTurn_of_sched hs
  rw [step_engine ht, State.taken_engine ht, hs, List.tail_cons]

/-- Engine `i` of `s` computes the digest of `M`, and no read of its message is refused. -/
structure State.Runs (s : State) (i : Nat) (c : Ctx) (alg : Alg) (M : List Byte) : Prop where
  computes : ∃ e, s.engine? i = some e ∧ e.Computes s.mem c alg M
  readable : MessageReadable s.plat c.base c.len

namespace State.Runs

variable {s : State} {i : Nat} {c : Ctx} {alg : Alg} {M : List Byte} {rest : List Turn}

/-- A turn of the engine with a block left is one more block (R95). -/
theorem block_turn (h : s.Runs i c alg M) (hlt : c.blk < c.nblk) (hs : s.sched = .engine i :: rest) :
    ∃ t c', step s = .next t ∧ t.Runs i c' alg M ∧ c'.blk = c.blk + 1 ∧ c'.nblk = c.nblk ∧ t.sched = rest ∧
      s.OnlyMoves i t := by
  obtain ⟨⟨e, he, hcomp⟩, hread⟩ := h
  obtain ⟨hg, hB⟩ | ⟨-, k, -, hk, hrefused⟩ := hcomp.gatherBlock_cases (p := s.plat) hlt
  · have hmoves := State.OnlyMoves.engineStep i s rest
    have hafter := engineStep_engine?_block (s := { s with sched := rest }) he hcomp.phase hlt
    obtain ⟨-, -, -, hsched, -⟩ := engineStep_frame { s with sched := rest } i
    refine ⟨_, c.advance (gatherBlock s.plat s.mem c).bytes, step_engine_of_sched hs, ⟨⟨_, hafter, ?_⟩, ?_⟩, rfl, rfl,
      hsched, hmoves⟩
    · rw [hmoves.mem]
      exact hcomp.advance hlt hg hB
    · rw [hmoves.plat]
      exact hread
  · simp [hread k hk] at hrefused

/-- The turn of the engine with every block done is the finish step (R97). -/
theorem finish_turn (h : s.Runs i c alg M) (hblk : c.blk = c.nblk) (hs : s.sched = .engine i :: rest) :
    ∃ t x, step s = .next t ∧ t.engine? i = some x ∧ x.Finished alg M ∧ t.sched = rest ∧ s.OnlyMoves i t := by
  obtain ⟨⟨e, he, hcomp⟩, -⟩ := h
  have hafter := engineStep_engine?_finish (s := { s with sched := rest }) he hcomp.phase hblk.ge
  obtain ⟨-, -, -, hsched, -⟩ := engineStep_frame { s with sched := rest } i
  rw [hcomp.finishBytes_eq] at hafter
  exact ⟨_, _, step_engine_of_sched hs, hafter, hcomp.finish hblk, hsched, State.OnlyMoves.engineStep i s rest⟩

/-- After `n` of its turns, `n` more blocks are done. -/
theorem run_blocks {n : Nat} (h : s.Runs i c alg M) (hn : c.blk + n ≤ c.nblk)
    (hs : s.sched = List.replicate n (.engine i) ++ rest) :
    ∃ t c', Sys2Proof.core.run n s = .next t ∧ t.Runs i c' alg M ∧ c'.blk = c.blk + n ∧ c'.nblk = c.nblk ∧
      t.sched = rest ∧ s.OnlyMoves i t := by
  induction n generalizing s c with
  | zero => exact ⟨s, c, rfl, h, rfl, rfl, hs, .refl i s⟩
  | succ n ih =>
    obtain ⟨t, c', hstep, ht, hblk, hnblk, hsched, hmoves⟩ := h.block_turn (by omega) hs
    obtain ⟨u, c'', hrun, hu, hblk', hnblk', hsched', hmoves'⟩ := ih ht (by omega) hsched
    exact ⟨u, c'', by rw [core_run_succ n hstep, hrun], hu, by omega, by omega, hsched', hmoves.trans hmoves'⟩

end State.Runs

/-- A run may be cut where it answers a state. -/
theorem core_run_add {s t : State} {n : Nat} (k : Nat) (h : Sys2Proof.core.run n s = .next t) :
    Sys2Proof.core.run (n + k) s = Sys2Proof.core.run k t := by
  induction n generalizing s with
  | zero =>
    obtain rfl : s = t := Host.Outcome.next.inj h
    rw [Nat.zero_add]
  | succ n ih =>
    cases hs : step s with
    | next u =>
      rw [core_run_succ n hs] at h
      rw [Nat.succ_add, core_run_succ _ hs, ih h]
    | fault r => cases r
    | refused r =>
      have hcore : Sys2Proof.core.step s = .refused r := hs
      simp [Host.Core.run, hcore] at h

/-- The turns for the blocks left and one more end in the digest (R105, R106). -/
theorem State.Runs.run_finish {s : State} {i : Nat} {c : Ctx} {alg : Alg} {M : List Byte} {rest : List Turn}
    (h : s.Runs i c alg M) (hs : s.sched = List.replicate (c.nblk - c.blk + 1) (.engine i) ++ rest) :
    ∃ t x, Sys2Proof.core.run (c.nblk - c.blk + 1) s = .next t ∧ t.engine? i = some x ∧ x.Finished alg M ∧
      t.sched = rest ∧ s.OnlyMoves i t := by
  have hle : c.blk ≤ c.nblk := by
    obtain ⟨⟨e, -, hcomp⟩, -⟩ := h
    exact hcomp.blkLe
  rw [List.replicate_succ', List.append_assoc] at hs
  obtain ⟨t, c', hrun, ht, hblk, hnblk, hsched, hmoves⟩ := h.run_blocks (by omega) hs
  obtain ⟨u, x, hstep, hx, hfin, hsched', hmoves'⟩ := ht.finish_turn (by omega) hsched
  exact ⟨u, x, by rw [core_run_add 1 hrun]; exact core_run_succ 0 hstep, hx, hfin, hsched', hmoves.trans hmoves'⟩

/-- Acceptance starts the computation over the bytes memory holds (R90, R93). -/
theorem Engine.computes_of_accepted (m : Memory) (e : Engine) (v : Word32) (a : Alg) :
    ((e.beginCommand v).enterBusy a).Computes m (freshCtx a e.msgBase.toNat e.msgLen.toNat) a
      (messageAt m e.msgBase.toNat e.msgLen.toNat) :=
  ⟨rfl, rfl, rfl, freshCtx_alg .., rfl, rfl, Nat.zero_le _, rfl⟩

theorem State.Runs.of_accepted {s : State} {i : Nat} {e : Engine} (v : Word32) (a : Alg) (turns : List Turn)
    (he : s.engine? i = some e) (hread : MessageReadable s.plat e.msgBase.toNat e.msgLen.toNat) :
    State.Runs { s.setEngine i ((e.beginCommand v).enterBusy a) with sched := turns } i
      (freshCtx a e.msgBase.toNat e.msgLen.toNat) a (messageAt s.mem e.msgBase.toNat e.msgLen.toNat) :=
  ⟨⟨_, State.engine?_setEngine_self _ he, e.computes_of_accepted ..⟩, hread⟩

/-- A command that passes every check, where no allocation may fail. -/
theorem exec_entersBusy {s : State} {e : Engine} (i : Instr) (he : s.engine? s.sel = some e) (hb : e.isBusy = false)
    (hmay : s.plat.allocMayFail = false) (hr : e.msgBase.toNat + e.msgLen.toNat ≤ memBytes s.plat)
    (hse : meetsSideEffect s.plat e.msgBase.toNat e.msgLen.toNat = false) :
    exec i s = .next (s.setEngine s.sel ((e.beginCommand (encode i)).enterBusy (algOf i))) := by
  rw [exec_eq, writeCmd_free _ _ he hb, accept_entersBusy _ _ _ (drawAllocFail_of_not s hmay) hr hse,
    State.afterDraw_of_not s hmay]

/-- Settles O42: acceptance starts the computation, and the first `k` of its turns do `k` blocks. -/
theorem commandReachesItsDigest : Obligations.CommandReachesItsDigest := by
  intro i s e rest he hb hmay hr hse hread
  refine ⟨_, blockCount (algOf i) e.msgLen.toNat, exec_entersBusy i he hb hmay hr hse, blockCount_eq ..,
    fun k hk => ?_, ?_⟩
  · have hturns : List.replicate (blockCount (algOf i) e.msgLen.toNat + 1) (Turn.engine s.sel) ++ rest =
        List.replicate k (.engine s.sel) ++
          (List.replicate (blockCount (algOf i) e.msgLen.toNat + 1 - k) (.engine s.sel) ++ rest) := by
      rw [← List.append_assoc, List.replicate_append_replicate, Nat.add_sub_cancel' (by omega)]
    obtain ⟨t, c, hrun, ⟨⟨x, hx, hcomp⟩, -⟩, hblk, -⟩ :=
      (State.Runs.of_accepted (encode i) (algOf i) _ he hread).run_blocks (by simpa [freshCtx] using hk) hturns
    exact ⟨t, x, c, hrun, hx, hcomp.phase, by simpa [freshCtx] using hblk⟩
  · obtain ⟨u, x, hrun, hx, hfin, hsched, hmoves⟩ :=
      (State.Runs.of_accepted (encode i) (algOf i) _ he hread).run_finish rfl
    exact ⟨u, x, hrun, hx, hfin, hmoves.mem, hsched, hmoves.hosts, hmoves.resets, hmoves.recorded,
      fun j hj => (hmoves.others j hj).trans (State.engine?_setEngine_ne _ hj.symm)⟩

/-- The digest registers of a finished command are its message's alone. -/
theorem Engine.Finished.unique {x x' : Engine} {alg : Alg} {M : List Byte} (h : x.Finished alg M)
    (h' : x'.Finished alg M) : x.digest = x'.digest ∧ x.dlen = x'.dlen := by
  refine ⟨Vector.ext fun k hk => ?_, BitVec.eq_of_toNat_eq (h.dlen.trans h'.dlen.symm)⟩
  exact (h.digest ⟨k, hk⟩).trans (h'.digest ⟨k, hk⟩).symm

/-- Settles O45: both commands finish with the digest of the one message. -/
theorem sameMessageSameDigest : Obligations.SameMessageSameDigest := by
  intro s s' i i' e e' c c' alg M he he' hcomp hcomp' hread hread' hs hs'
  obtain ⟨t, x, hrun, hx, hfin, -⟩ :=
    State.Runs.run_finish (rest := []) ⟨⟨e, he, hcomp⟩, hread⟩ (by rw [hs, List.append_nil])
  obtain ⟨t', x', hrun', hx', hfin', -⟩ :=
    State.Runs.run_finish (rest := []) ⟨⟨e', he', hcomp'⟩, hread'⟩ (by rw [hs', List.append_nil])
  obtain ⟨hdigest, hdlen⟩ := hfin.unique hfin'
  exact ⟨t, t', x, x', hrun, hrun', hx, hx', x.isDone_iff.mpr hfin.phase, x'.isDone_iff.mpr hfin'.phase, hdigest, hdlen⟩

/-! ## Words and their bytes (R100 to R104) -/

/-- The word whose bytes, least significant first, are those of the list. -/
def joinBytes (w : Nat) : List Byte → BitVec w
  | [] => 0#w
  | b :: bs => joinBytes w bs <<< 8 ||| b.setWidth w

/-- Bit `i` of a joined word is bit `i % 8` of byte `i / 8`. -/
theorem getLsbD_joinBytes {w i : Nat} (bs : List Byte) (hi : i < w) :
    (joinBytes w bs).getLsbD i = (bs.getD (i / 8) 0#8).getLsbD (i % 8) := by
  induction bs generalizing i with
  | nil => simp [joinBytes]
  | cons b bs ih =>
    simp only [joinBytes, BitVec.getLsbD_or, BitVec.getLsbD_setWidth, BitVec.getLsbD_shiftLeft]
    by_cases h8 : i < 8
    · simp [hi, h8, Nat.div_eq_of_lt h8, Nat.mod_eq_of_lt h8]
    · have hdiv : i / 8 = (i - 8) / 8 + 1 := by omega
      simp [hi, h8, BitVec.getLsbD_of_ge b i (by omega), ih (i := i - 8) (by omega), hdiv,
        show (i - 8) % 8 = i % 8 by omega]

/-- The value of a joined word: its bytes are digits to the base 256. -/
theorem toNat_joinBytes {w : Nat} (bs : List Byte) (h : 8 * bs.length ≤ w) :
    (joinBytes w bs).toNat = Nat.ofDigits 256 (bs.map BitVec.toNat) := by
  induction bs with
  | nil => simp [joinBytes]
  | cons b bs ih =>
    rw [List.length_cons, Nat.mul_succ] at h
    have hrest : Nat.ofDigits 256 (bs.map BitVec.toNat) < 256 ^ bs.length := by
      simpa using Nat.ofDigits_lt_base_pow_length (b := 256) (l := bs.map BitVec.toNat) (by norm_num)
        fun x hx => by obtain ⟨y, -, rfl⟩ := List.mem_map.mp hx; exact y.isLt
    have hfit : 2 ^ 8 * 256 ^ bs.length ≤ 2 ^ w := by
      rw [show 256 = 2 ^ 8 from rfl, ← Nat.pow_mul, ← Nat.pow_add]
      exact Nat.pow_le_pow_right (by norm_num) (by omega)
    have hb : b.toNat < 2 ^ w := lt_of_lt_of_le b.isLt (Nat.pow_le_pow_right (by norm_num) (by omega))
    rw [joinBytes, BitVec.toNat_or, BitVec.toNat_setWidth, BitVec.toNat_shiftLeft, ih (by omega),
      Nat.mod_eq_of_lt hb, Nat.mod_eq_of_lt (by rw [Nat.shiftLeft_eq]; omega),
      ← Nat.shiftLeft_add_eq_or_of_lt b.isLt, Nat.shiftLeft_eq, List.map_cons, Nat.ofDigits_cons]
    omega

theorem wordBytesLe_getElem? {w j : Nat} (x : BitVec w) (hj : j < w / 8) :
    (wordBytesLe x)[j]? = some (x.extractLsb' (8 * j) 8) := by
  simp [wordBytesLe, hj, BitVec.setWidth_ushiftRight_eq_extractLsb]

theorem wordBytesBe_getElem? {w j : Nat} (x : BitVec w) (hj : j < w / 8) :
    (wordBytesBe x)[j]? = some (x.extractLsb' (w - 8 - 8 * j) 8) := by
  simp [wordBytesBe, hj, BitVec.setWidth_ushiftRight_eq_extractLsb]

theorem getD_wordBytesLe {w j : Nat} (x : BitVec w) (hj : j < w / 8) :
    (wordBytesLe x).getD j 0#8 = x.extractLsb' (8 * j) 8 := by
  rw [List.getD_eq_getElem?_getD, wordBytesLe_getElem? x hj]
  rfl

/-- The serializer of the other byte order writes the same bytes in reverse. -/
theorem wordBytesBe_eq_reverse {w : Nat} (hw : w % 8 = 0) (x : BitVec w) : wordBytesBe x = (wordBytesLe x).reverse := by
  refine List.ext_getElem (by simp) fun j hj _ => ?_
  rw [wordBytesBe_length] at hj
  simp [wordBytesBe, wordBytesLe, show 8 * (w / 8 - 1 - j) = w - 8 - 8 * j by omega]

/-- Joining the bytes of a word gives the word. -/
theorem joinBytes_wordBytesLe {w : Nat} (hw : w % 8 = 0) (x : BitVec w) : joinBytes w (wordBytesLe x) = x := by
  refine BitVec.eq_of_getLsbD_eq fun i hi => ?_
  rw [getLsbD_joinBytes _ hi, getD_wordBytesLe x (by omega), BitVec.getLsbD_extractLsb',
    show 8 * (i / 8) + i % 8 = i by omega]
  simp [Nat.mod_lt]

/-- The bytes of a word joined from `w / 8` bytes are those bytes. -/
theorem wordBytesLe_joinBytes {w : Nat} {bs : List Byte} (h : 8 * bs.length = w) :
    wordBytesLe (joinBytes w bs) = bs := by
  refine List.ext_getElem (by rw [wordBytesLe_length]; omega) fun j hj hj' => ?_
  rw [wordBytesLe_length] at hj
  rw [(List.getElem_eq_iff _).mpr (wordBytesLe_getElem? _ hj)]
  refine BitVec.eq_of_getLsbD_eq fun k hk => ?_
  rw [BitVec.getLsbD_extractLsb', getLsbD_joinBytes bs (by omega), show (8 * j + k) / 8 = j by omega,
    show (8 * j + k) % 8 = k by omega, List.getD_eq_getElem _ _ hj']
  simp [hk]

/-- Bytes `o` to `o + n - 1` of a block. -/
def blockSpan (B : List Byte) (o n : Nat) : List Byte := (List.range n).map fun i => blockByte B (o + i)

theorem blockSpan_length (B : List Byte) (o n : Nat) : (blockSpan B o n).length = n := by
  simp [blockSpan]

theorem blockSpan_append {l : List Byte} {n : Nat} (rest : List Byte) (hn : l.length = n) :
    blockSpan (l ++ rest) 0 n = l := by
  refine List.ext_getElem (by simp [blockSpan, hn]) fun i hi hl => ?_
  simp [blockSpan, blockByte, List.getElem?_append_left hl, hl]

theorem blockSpan_four (B : List Byte) (o : Nat) :
    blockSpan B o 4 = [blockByte B o, blockByte B (o + 1), blockByte B (o + 2), blockByte B (o + 3)] := rfl

theorem blockSpan_eight (B : List Byte) (o : Nat) :
    blockSpan B o 8 = [blockByte B o, blockByte B (o + 1), blockByte B (o + 2), blockByte B (o + 3),
      blockByte B (o + 4), blockByte B (o + 5), blockByte B (o + 6), blockByte B (o + 7)] := rfl

theorem joinBytes_cons {w : Nat} (b : Byte) (bs : List Byte) :
    joinBytes w (b :: bs) = joinBytes w bs <<< 8 ||| b.setWidth w := rfl

theorem joinBytes_nil {w : Nat} : joinBytes w [] = 0#w := rfl

theorem or_reverse {w : Nat} (x y z u : BitVec w) : x ||| y ||| z ||| u = u ||| z ||| y ||| x := by
  ac_rfl

theorem le32_eq_joinBytes (B : List Byte) (j : Nat) : le32 B j = joinBytes 32 (blockSpan B (4 * j) 4) := by
  simp only [le32, blockSpan_four, joinBytes_cons, joinBytes_nil, BitVec.zero_shiftLeft, BitVec.zero_or,
    BitVec.shiftLeft_or_distrib, ← BitVec.shiftLeft_add, Nat.reduceAdd]
  exact or_reverse ..

theorem be32_eq_joinBytes (B : List Byte) (j : Nat) : be32 B j = joinBytes 32 (blockSpan B (4 * j) 4).reverse := by
  simp only [be32, blockSpan_four, List.reverse_cons, List.reverse_nil, List.nil_append, List.cons_append,
    joinBytes_cons, joinBytes_nil, BitVec.zero_shiftLeft, BitVec.zero_or, BitVec.shiftLeft_or_distrib,
    ← BitVec.shiftLeft_add, Nat.reduceAdd]

theorem be64_eq_joinBytes (B : List Byte) (j : Nat) : be64 B j = joinBytes 64 (blockSpan B (8 * j) 8).reverse := by
  have hunroll : List.range 8 = [0, 1, 2, 3, 4, 5, 6, 7] := rfl
  simp only [be64, hunroll, List.foldl_cons, List.foldl_nil, Nat.reduceMul, Nat.reduceSub,
    Nat.add_zero, BitVec.shiftLeft_zero, blockSpan_eight, List.reverse_cons, List.reverse_nil, List.nil_append,
    List.cons_append, joinBytes_cons, joinBytes_nil, BitVec.zero_shiftLeft, BitVec.zero_or,
    BitVec.shiftLeft_or_distrib, ← BitVec.shiftLeft_add, Nat.reduceAdd]

/-- Settles O53: each loader joins its bytes, which the serializer of its byte order takes apart. -/
theorem loadersInvertTheSerializer : Obligations.LoadersInvertTheSerializer := by
  refine ⟨fun B j => ?_, fun B j => ?_, fun B j => ?_, fun x rest => ?_, fun x rest => ?_, fun x rest => ?_,
    fun B j => ⟨?_, ?_, ?_⟩⟩
  · rw [le32_eq_joinBytes, toNat_joinBytes _ (by simp [blockSpan_length]), blockSpan_four]
    simp only [List.map_cons, List.map_nil, Nat.ofDigits_cons, Nat.ofDigits_nil]
    omega
  · rw [be32_eq_joinBytes, toNat_joinBytes _ (by simp [blockSpan_length]), blockSpan_four]
    simp only [List.reverse_cons, List.reverse_nil, List.nil_append, List.cons_append,
      List.map_cons, List.map_nil, Nat.ofDigits_cons, Nat.ofDigits_nil]
    omega
  · rw [be64_eq_joinBytes, toNat_joinBytes _ (by simp [blockSpan_length]), blockSpan_eight]
    simp only [List.reverse_cons, List.reverse_nil, List.nil_append, List.cons_append,
      List.map_cons, List.map_nil, Nat.ofDigits_cons, Nat.ofDigits_nil]
    omega
  · rw [le32_eq_joinBytes, blockSpan_append rest (wordBytesLe_length x), joinBytes_wordBytesLe rfl]
  · rw [be32_eq_joinBytes, blockSpan_append rest (wordBytesBe_length x), wordBytesBe_eq_reverse rfl,
      List.reverse_reverse, joinBytes_wordBytesLe rfl]
  · rw [be64_eq_joinBytes, blockSpan_append rest (wordBytesBe_length x), wordBytesBe_eq_reverse rfl,
      List.reverse_reverse, joinBytes_wordBytesLe rfl]
  · rw [le32_eq_joinBytes, wordBytesLe_joinBytes (by simp [blockSpan_length])]
    rfl
  · rw [be32_eq_joinBytes, wordBytesBe_eq_reverse rfl, wordBytesLe_joinBytes (by simp [blockSpan_length]),
      List.reverse_reverse]
    rfl
  · rw [be64_eq_joinBytes, wordBytesBe_eq_reverse rfl, wordBytesLe_joinBytes (by simp [blockSpan_length]),
      List.reverse_reverse]
    rfl

/-- Byte `n * i + j` of parts of `n` bytes each is byte `j` of part `i`. -/
theorem getElem?_flatMap_of_length {α β : Type} {f : α → List β} {n i j : Nat} {x : α} (hf : ∀ y, (f y).length = n)
    (l : List α) (hx : l[i]? = some x) (hj : j < n) : (l.flatMap f)[n * i + j]? = (f x)[j]? := by
  induction l generalizing i with
  | nil => simp at hx
  | cons y l ih =>
    cases i with
    | zero =>
      obtain rfl : y = x := by simpa using hx
      simp [List.getElem?_append_left (show j < (f y).length by rwa [hf])]
    | succ i =>
      rw [List.flatMap_cons, List.getElem?_append_right (by rw [hf, Nat.mul_succ]; omega), hf,
        show n * (i + 1) + j - n = n * i + j by rw [Nat.mul_succ]; omega]
      exact ih (by simpa using hx)

/-- The words of a state, `H[0]` first. -/
def Words8.toList {w : Nat} (h : Words8 w) : List (BitVec w) := [h.a, h.b, h.c, h.d, h.e, h.f, h.g, h.h]

theorem md5Serialize_eq (h : Words4) : md5Serialize h = [h.a, h.b, h.c, h.d].flatMap wordBytesLe := by
  simp [md5Serialize]

theorem sha1Serialize_eq (h : Words5) : sha1Serialize h = [h.a, h.b, h.c, h.d, h.e].flatMap wordBytesBe := by
  simp [sha1Serialize]

theorem sha256Serialize_eq (h : Words8 32) : sha256Serialize h = h.toList.flatMap wordBytesBe := by
  simp [sha256Serialize, Words8.toList]

theorem sha512Serialize_eq (h : Words8 64) : sha512Serialize h = h.toList.flatMap wordBytesBe := by
  simp [sha512Serialize, Words8.toList]

/-- Byte `j` of word `i` in a big-endian serialization. -/
theorem getElem?_serializedBe {w n i j : Nat} {l : List (BitVec w)} {x : BitVec w} (hn : w / 8 = n)
    (hx : l[i]? = some x) (hj : j < n) :
    (l.flatMap wordBytesBe)[n * i + j]? = some (x.extractLsb' (w - 8 - 8 * j) 8) := by
  subst hn
  rw [getElem?_flatMap_of_length wordBytesBe_length l hx hj, wordBytesBe_getElem? x hj]

theorem getElem?_serializedLe {w n i j : Nat} {l : List (BitVec w)} {x : BitVec w} (hn : w / 8 = n)
    (hx : l[i]? = some x) (hj : j < n) : (l.flatMap wordBytesLe)[n * i + j]? = some (x.extractLsb' (8 * j) 8) := by
  subst hn
  rw [getElem?_flatMap_of_length wordBytesLe_length l hx hj, wordBytesLe_getElem? x hj]

/-- The serialization has NW(alg) w(alg) / 8 bytes (R103). -/
theorem serialize_length (h : HState) : (serialize h).length = stateWords h.alg * wordBits h.alg / 8 := by
  cases h <;>
    simp [serialize, HState.alg, stateWords, wordBits, md5Serialize, sha1Serialize, sha256Serialize, sha512Serialize]

/-- SHA224 and SHA384 alone truncate (R104). -/
theorem digestOf_eq_serialize (h : HState) (h224 : h.alg ≠ .sha224) (h384 : h.alg ≠ .sha384) :
    digestOf h = serialize h := by
  refine List.take_of_length_le ?_
  rw [serialize_length]
  cases hc : h.alg <;> simp_all [stateWords, wordBits, digestBytes]

/-- Settles O54: the serialization is the words' bytes one word after the other, and truncation takes whole words. -/
theorem truncationKeepsTheFirstWords : Obligations.TruncationKeepsTheFirstWords := by
  refine ⟨fun h i j x hx hj => ?_, fun h i j x hx hj => ?_, fun h i j x hx hj => ?_, fun h i j x hx hj => ?_,
    fun h i j x hx hj => ?_, fun h i j x hx hj => ?_, fun h => ⟨serialize_length h, rfl, digestOf_length h⟩,
    fun h => digestOf_eq_serialize (.md5 h) Alg.noConfusion Alg.noConfusion,
    fun h => digestOf_eq_serialize (.sha1 h) Alg.noConfusion Alg.noConfusion,
    fun h => digestOf_eq_serialize (.sha256 h) Alg.noConfusion Alg.noConfusion,
    fun h => digestOf_eq_serialize (.sha512 h) Alg.noConfusion Alg.noConfusion, fun h => ?_, fun h => ?_⟩
  · rw [serialize, md5Serialize_eq]
    exact getElem?_serializedLe rfl hx hj
  · rw [serialize, sha1Serialize_eq]
    exact getElem?_serializedBe rfl hx hj
  · rw [serialize, sha256Serialize_eq]
    exact getElem?_serializedBe rfl hx hj
  · rw [serialize, sha256Serialize_eq]
    exact getElem?_serializedBe rfl hx hj
  · rw [serialize, sha512Serialize_eq]
    exact getElem?_serializedBe rfl hx hj
  · rw [serialize, sha512Serialize_eq]
    exact getElem?_serializedBe rfl hx hj
  · exact List.take_left' (by simp [HState.alg, digestBytes])
  · rw [digestOf, serialize, sha512Serialize, List.append_assoc]
    exact List.take_left' (by simp [HState.alg, digestBytes])

end Sys2Proof.Machine
end

section
/-! The statements of spec/41_padding.md: the padded length and the block count (R121, R122), the padded message byte by
byte (R120, R125, R130), the length field read back (R129), the block step's block (R126) and the empty message
(R128). -/

namespace Sys2Proof.Machine

/-! ## The padded length and the block count (R121, R122) -/

theorem lenBytes_lt_blockBytes (alg : Alg) : lenBytes alg < blockBytes alg := by cases alg <;> decide

theorem paddedLen_le (alg : Alg) (L : Nat) : paddedLen alg L ≤ L + lenBytes alg + blockBytes alg := by
  have hfloor := Nat.mul_div_le (L + lenBytes alg) (blockBytes alg)
  rw [paddedLen, Nat.mul_succ]
  omega

/-- No shorter number of blocks holds message, terminator and length field. -/
theorem paddedLen_le_of_holds {alg : Alg} {L m : Nat} (h : L + 1 + lenBytes alg ≤ blockBytes alg * m) :
    paddedLen alg L ≤ blockBytes alg * m :=
  Nat.mul_le_mul_left _ (Nat.div_lt_of_lt_mul (by omega))

/-- Settles O46: the division's bounds put the padded length less than one block above what it has to hold. -/
theorem paddedLengthIsTheLeastMultiple : Obligations.PaddedLengthIsTheLeastMultiple := by
  intro alg L
  have hparts := paddedLen_eq_parts alg L
  have hle := paddedLen_le alg L
  have hpos := blockBytes_pos alg
  have hceil : L + 1 + lenBytes alg + (blockBytes alg - 1) = L + lenBytes alg + blockBytes alg := by omega
  refine ⟨?_, rfl, by omega, by omega, fun m => paddedLen_le_of_holds⟩
  rw [hceil, Nat.add_div_right _ hpos, paddedLen]

/-- The blocks of the message alone, one for the padding, and one more where the last partial block has no room. -/
theorem blockCount_eq_spill (alg : Alg) (L : Nat) :
    blockCount alg L =
      L / blockBytes alg + (if blockBytes alg ≤ L % blockBytes alg + lenBytes alg then 1 else 0) + 1 := by
  have hlt := lenBytes_lt_blockBytes alg
  rw [blockCount_eq, Nat.add_div (blockBytes_pos alg), Nat.div_eq_of_lt hlt, Nat.mod_eq_of_lt hlt,
    Nat.add_zero (L / blockBytes alg)]

/-- Settles O47: whether the last partial block has room decides between the two counts. -/
theorem blockCountAndSpill : Obligations.BlockCountAndSpill := by
  intro alg L
  have hspill := blockCount_eq_spill alg L
  refine ⟨rfl, blockCount_eq alg L, hspill ▸ Nat.succ_pos _, ?_⟩
  by_cases hroom : L % blockBytes alg < blockBytes alg - lenBytes alg
  · rw [if_neg (by omega)] at hspill
    omega
  · rw [if_pos (by omega)] at hspill
    omega

/-! ## The padded message byte by byte (R120, R125, R130) -/

theorem getElem?_pad_message {alg : Alg} {M : List Byte} {k : Nat} (hk : k < M.length) : (pad alg M)[k]? = M[k]? := by
  rw [pad_eq_append, List.getElem?_append_left hk]

theorem getElem?_pad_padding {alg : Alg} {M : List Byte} {k : Nat} (hlo : M.length ≤ k)
    (hhi : k < paddedLen alg M.length) : (pad alg M)[k]? = some (padByte alg M.length k) := by
  have hk : k - M.length < paddedLen alg M.length - M.length := by omega
  simp [pad_eq_append, List.getElem?_append_right hlo, hk, hlo]

theorem getElem?_lenField {alg : Alg} {j : Nat} (L : Nat) (hj : j < lenBytes alg) :
    (lenField alg L)[j]? = some (lenFieldByte alg L j) := by
  simp [lenField, hj]

/-- Settles O48: after the message, byte by byte what `padByte` gives on its three ranges. -/
theorem paddedMessageByteByByte : Obligations.PaddedMessageByteByByte := by
  intro alg M
  have hlt := lt_paddedLen alg M.length
  have hle := paddedLen_le alg M.length
  refine ⟨pad_length alg M, by omega, by omega, fun k => getElem?_pad_message, ?_, fun k hlo hhi => ?_,
    fun j hj => ?_, fun k => getElem?_pad_padding⟩
  · rw [getElem?_pad_padding (le_refl _) (by omega), padByte_terminator]
  · rw [getElem?_pad_padding hlo.le (by omega), padByte_zero hlo hhi]
  · rw [getElem?_pad_padding (by omega) (by omega), padByte_lenField, getElem?_lenField _ hj]

/-! ## The length field read back (R123, R124, R129) -/

theorem lenField_length (alg : Alg) (L : Nat) : (lenField alg L).length = lenBytes alg := by
  simp [lenField]

/-- The last LF bytes of the padded message are the length field. -/
theorem pad_drop_lenField (alg : Alg) (M : List Byte) :
    (pad alg M).drop ((pad alg M).length - lenBytes alg) = lenField alg M.length := by
  refine List.drop_left' ?_
  simp only [pad, List.length_append, lenField_length]
  omega

/-- The bit length 8L as a word as wide as the length field, which keeps it modulo 2^(8 LF) (R123). -/
def bitLenWord (alg : Alg) (L : Nat) : BitVec (8 * lenBytes alg) := BitVec.ofNat _ (8 * L)

theorem toNat_bitLenWord (alg : Alg) (L : Nat) : (bitLenWord alg L).toNat = 8 * L % 2 ^ (8 * lenBytes alg) :=
  BitVec.toNat_ofNat ..

/-- A byte of the length field's value, by its shift. -/
theorem lenFieldValue_byte (alg : Alg) (L n : Nat) :
    BitVec.ofNat 8 (lenFieldValue alg L >>> n) = (bitLenWord alg L >>> n).setWidth 8 := by
  refine BitVec.eq_of_toNat_eq ?_
  simp [lenFieldValue, toNat_bitLenWord]

theorem lenField_eq_wordBytesLe {alg : Alg} (L : Nat) (h : lenLittleEndian alg = true) :
    lenField alg L = wordBytesLe (bitLenWord alg L) := by
  rw [lenField, wordBytesLe, Nat.mul_div_cancel_left _ (by decide)]
  refine List.map_congr_left fun i _ => ?_
  rw [lenFieldByte, if_pos h, lenFieldValue_byte]

theorem lenField_eq_wordBytesBe {alg : Alg} (L : Nat) (h : ¬lenLittleEndian alg = true) :
    lenField alg L = wordBytesBe (bitLenWord alg L) := by
  rw [lenField, wordBytesBe, Nat.mul_div_cancel_left _ (by decide)]
  refine List.map_congr_left fun i _ => ?_
  have hshift : 8 * (lenBytes alg - 1 - i) = 8 * lenBytes alg - 8 - 8 * i := by omega
  rw [lenFieldByte, if_neg h, lenFieldValue_byte, hshift]

/-- Reading a word's bytes from the least significant one gives its value. -/
theorem foldr_wordBytesLe {w : Nat} (hw : w % 8 = 0) (x : BitVec w) :
    (wordBytesLe x).foldr (fun b n => b.toNat + 256 * n) 0 = x.toNat := by
  have hvalue := toNat_joinBytes (wordBytesLe x) (w := w) (by rw [wordBytesLe_length]; omega)
  rw [joinBytes_wordBytesLe hw, Nat.ofDigits_eq_foldr, List.foldr_map] at hvalue
  exact hvalue.symm

/-- Reading a word's bytes from the most significant one gives its value. -/
theorem foldl_wordBytesBe {w : Nat} (hw : w % 8 = 0) (x : BitVec w) :
    (wordBytesBe x).foldl (fun n b => n * 256 + b.toNat) 0 = x.toNat := by
  rw [wordBytesBe_eq_reverse hw, List.foldl_reverse, ← foldr_wordBytesLe hw x]
  simp only [Nat.mul_comm, Nat.add_comm]

theorem lenBytes_of_sha512_family {alg : Alg} (h : alg = .sha384 ∨ alg = .sha512) : lenBytes alg = 16 := by
  obtain rfl | rfl := h <;> rfl

theorem lenBytes_of_not_sha512_family {alg : Alg} (h384 : alg ≠ .sha384) (h512 : alg ≠ .sha512) :
    lenBytes alg = 8 := by
  cases alg with
  | sha384 => contradiction
  | sha512 => contradiction
  | _ => rfl

/-- Settles O49: the field holds the bytes of a word of its width, and 8L is its own remainder exactly when it is below
the modulus. -/
theorem lengthFieldRoundTrip : Obligations.LengthFieldRoundTrip := by
  intro alg M v hv
  have hvalue : v = 8 * M.length % 2 ^ (8 * lenBytes alg) := by
    rw [hv, pad_drop_lenField, ← toNat_bitLenWord]
    split
    next hle => rw [lenField_eq_wordBytesLe _ hle, foldr_wordBytesLe (Nat.mul_mod_right ..)]
    next hbe => rw [lenField_eq_wordBytesBe _ hbe, foldl_wordBytesBe (Nat.mul_mod_right ..)]
  have hfits : v = 8 * M.length ↔ 8 * M.length < 2 ^ (8 * lenBytes alg) := by
    rw [hvalue]
    exact Nat.mod_eq_iff_lt (by positivity)
  refine ⟨hvalue, hfits, fun h hL => ?_, fun h384 h512 => ?_⟩
  · rw [hfits, lenBytes_of_sha512_family h]
    omega
  · rw [hfits, lenBytes_of_not_sha512_family h384 h512]
    omega

/-! ## The block step's block (R126) -/

/-- Settles O50: the block step's bytes and the padded message's are the same bytes one by one. -/
theorem blockStepBuildsThePaddedBlock : Obligations.BlockStepBuildsThePaddedBlock := by
  intro p m alg base len n hread hn
  have hgather := gather_of_readable (m := m) (alg := alg) (k := n * blockBytes alg) (n := blockBytes alg)
    fun j _ _ hj => hread j hj
  rw [hgather]
  exact ⟨(padBlock_messageAt m base hn).symm, by simp, rfl⟩

/-! ## The empty message (R128) -/

theorem paddedLen_empty (alg : Alg) : paddedLen alg 0 = blockBytes alg := by
  rw [paddedLen, Nat.zero_add, Nat.div_eq_of_lt (lenBytes_lt_blockBytes alg), Nat.mul_one]

theorem lenField_empty (alg : Alg) : lenField alg 0 = List.replicate (lenBytes alg) 0x00#8 := by
  refine List.eq_replicate_iff.mpr ⟨lenField_length alg 0, fun b hb => ?_⟩
  obtain ⟨i, -, rfl⟩ := List.mem_map.mp hb
  simp [lenFieldByte, lenFieldValue]

theorem pad_empty (alg : Alg) : pad alg [] = 0x80#8 :: List.replicate (blockBytes alg - 1) 0x00#8 := by
  have hparts := paddedLen_eq_parts alg 0
  rw [paddedLen_empty] at hparts
  rw [pad, List.length_nil, lenField_empty, List.append_assoc, List.replicate_append_replicate,
    show zeroCount alg 0 + lenBytes alg = blockBytes alg - 1 by omega]
  rfl

/-- With no message byte the loop generates the padded message and reads nothing, whatever the platform refuses. -/
theorem gather_empty (p : Platform) (m : Memory) (alg : Alg) (base : Nat) :
    gather p m alg base 0 0 (blockBytes alg) = { bytes := pad alg [], reads := [], refusedAt := none } := by
  have hpad : pad alg [] = (List.range' 0 (blockBytes alg)).map (stepByte m alg base 0) := by
    rw [← paddedLen_empty]
    exact pad_messageAt m alg base 0
  rw [gather_of_readable fun j _ _ hj => absurd hj (Nat.not_lt_zero j), hpad]
  simp

/-- Settles O51: the one block of the empty message is all padding. -/
theorem emptyMessageReadsNothing : Obligations.EmptyMessageReadsNothing := by
  intro alg
  refine ⟨?_, pad_empty alg, lenField_empty alg, fun p m base => gather_empty p m alg base⟩
  rw [blockCount, paddedLen_empty, Nat.div_self (blockBytes_pos alg)]

end Sys2Proof.Machine
end

section
/-! The statements of spec/42_md5.md: MD5Compress step by step (R145 to R150), the acceptance of HASH.MD5 (R140, R142),
and the tables of the step constants and rotation amounts (R143, R144, 44_sha256.md R185, 45_sha512.md R215). -/

namespace Sys2Proof.Machine

/-! ## MD5Compress (R145 to R150) -/

/-- The message words (R148), read as a step reads them. -/
theorem md5Words_getD {j : Nat} (B : List Byte) (hj : j < 16) : (md5Words B).getD j 0#32 = le32 B j := by
  simp [md5Words, hj]

section

variable {i : Nat} (b c d : Word32)

theorem md5Quartile_F (h : i ≤ 15) : md5Fun i b c d = md5F b c d ∧ md5Index i = i :=
  ⟨if_pos h, if_pos h⟩

theorem md5Quartile_G (hlo : 16 ≤ i) (hhi : i ≤ 31) :
    md5Fun i b c d = md5G b c d ∧ md5Index i = (5 * i + 1) % 16 := by
  have hF : ¬i ≤ 15 := by omega
  simp only [md5Fun, md5Index, if_neg hF, if_pos hhi, and_self]

theorem md5Quartile_H (hlo : 32 ≤ i) (hhi : i ≤ 47) :
    md5Fun i b c d = md5H b c d ∧ md5Index i = (3 * i + 5) % 16 := by
  have hF : ¬i ≤ 15 := by omega
  have hG : ¬i ≤ 31 := by omega
  simp only [md5Fun, md5Index, if_neg hF, if_neg hG, if_pos hhi, and_self]

theorem md5Quartile_I (hlo : 48 ≤ i) : md5Fun i b c d = md5I b c d ∧ md5Index i = (7 * i) % 16 := by
  have hF : ¬i ≤ 15 := by omega
  have hG : ¬i ≤ 31 := by omega
  have hH : ¬i ≤ 47 := by omega
  simp only [md5Fun, md5Index, if_neg hF, if_neg hG, if_neg hH, and_self]

end

theorem md5Steps_succ (X : List Word32) (v : Words4) (n : Nat) :
    md5Steps X v (n + 1) = md5Step X (md5Steps X v n) n := by
  simp [md5Steps, List.range_succ]

/-- Settles O57: the working variables before step `i` are those `md5Steps` leaves after `i` steps. -/
theorem md5CompressesInSixtyFourSteps : Obligations.Md5CompressesInSixtyFourSteps := by
  intro H B
  refine ⟨fun j => (md5Words B).getD j 0#32, fun i => (md5Steps (md5Words B) H i).a,
    fun i => (md5Steps (md5Words B) H i).b, fun i => (md5Steps (md5Words B) H i).c,
    fun i => (md5Steps (md5Words B) H i).d, fun j hj => md5Words_getD B hj, rfl, rfl, rfl, rfl, fun i _ => ?_, rfl⟩
  have hstep := md5Steps_succ (md5Words B) H i
  exact ⟨md5Fun i _ _ _, md5Index i, md5Quartile_F _ _ _, md5Quartile_G _ _ _, md5Quartile_H _ _ _,
    md5Quartile_I _ _ _, congrArg Words4.a hstep, congrArg Words4.d hstep, congrArg Words4.c hstep,
    congrArg Words4.b hstep⟩

/-! ## Acceptance (R140, R142) -/

/-- `exec_entersBusy` field by field, the block count by R122: each command's parameters are all that differs. -/
theorem exec_accepted {s : State} {e : Engine} (i : Instr) (he : s.engine? s.sel = some e) (hb : e.isBusy = false)
    (hmay : s.plat.allocMayFail = false) (hr : e.msgBase.toNat + e.msgLen.toNat ≤ 2 ^ s.plat.addrW)
    (hse : meetsSideEffect s.plat e.msgBase.toNat e.msgLen.toNat = false) :
    exec i s = .next { s with
      engines := s.engines.set s.sel
        { e with
          cmd := encode i, digest := Vector.replicate 64 0#8, dlen := 0#8, race := false, result := .ok
          phase := .busy
            { base := e.msgBase.toNat, len := e.msgLen.toNat
              nblk := (e.msgLen.toNat + lenBytes (algOf i)) / blockBytes (algOf i) + 1, blk := 0
              h := iv (algOf i) } } } := by
  rw [exec_entersBusy i he hb hmay hr hse, ← blockCount_eq]
  rfl

/-- Settles O17: the parameters of MD5 are BS = 64, LF = 8 and the IV of R142. -/
theorem hashMd5IsAccepted : Obligations.HashMd5IsAccepted :=
  fun _ _ he hb hmay hr hse => exec_accepted .hashMd5 he hb hmay hr hse

/-! ## The tables (R143, R144, 44_sha256.md R185, 45_sha512.md R215) -/

/-- The rotation amount of a step is an entry of its quartile's row (R144). -/
theorem md5S_of_quartile {i q : Nat} (hq : i / 16 = q) : md5S i = (md5Rot.getD q []).getD (i % 4) 0 := by
  rw [md5S, hq]

/-- Settles O56: the tables are the concatenated rows, and a step's quartile names its row of rotation amounts. -/
theorem tablesOfTheRules : Obligations.TablesOfTheRules := by
  refine ⟨rfl, rfl, rfl, fun i hi => ?_⟩
  split
  · exact md5S_of_quartile (q := 0) (by omega)
  split
  · exact md5S_of_quartile (q := 1) (by omega)
  split
  · exact md5S_of_quartile (q := 2) (by omega)
  · exact md5S_of_quartile (q := 3) (by omega)

end Sys2Proof.Machine
end

section
/-! The statements of spec/43_sha1.md: SHA1Compress step by step (R163 to R170) and the acceptance of HASH.SHA1 (R160,
R162), after what holds of every schedule of the SHA family: it grows newest word first and is read in order. -/

namespace Sys2Proof.Machine

/-! ## Schedules that grow newest word first -/

section

variable {α : Type} (next : List α → α)

/-- Add to a schedule, held newest word first, the word `next` makes of it. -/
def growSchedule (W : List α) : List α := next W :: W

theorem growSchedule_iterate_length (n : Nat) (W : List α) :
    ((growSchedule next)^[n] W).length = W.length + n := by
  induction n with
  | zero => rfl
  | succ n ih => rw [Function.iterate_succ_apply', growSchedule, List.length_cons, ih, Nat.add_assoc]

/-- Without its `k` newest words, a schedule is as it was `k` additions before. -/
theorem growSchedule_iterate_drop (m k : Nat) (W : List α) :
    ((growSchedule next)^[m + k] W).drop k = (growSchedule next)^[m] W := by
  induction k with
  | zero => rfl
  | succ k ih => rw [← Nat.add_assoc, Function.iterate_succ_apply', growSchedule, List.drop_succ_cons, ih]

/-- Word `t` of the schedule in order is, after the first `m` additions, the entry `j` places before the newest. -/
theorem growSchedule_iterate_getD {n m t j : Nat} {W : List α} (d : α) (hm : m ≤ n)
    (ht : t + j + 1 = W.length + m) :
    ((growSchedule next)^[n] W).reverse.getD t d = ((growSchedule next)^[m] W).getD j d := by
  obtain ⟨k, rfl⟩ := Nat.exists_eq_add_of_le hm
  have hlen := growSchedule_iterate_length next (m + k) W
  have hentry : ((growSchedule next)^[m + k] W).length - 1 - t = k + j := by omega
  rw [List.getD_reverse t (by omega), hentry, ← growSchedule_iterate_drop next m k W]
  simp only [List.getD_eq_getElem?_getD, List.getElem?_drop]

end

/-! ## The schedule of SHA-1 (R164) -/

/-- The next word of the SHA-1 schedule `W`, held newest first (R164). -/
def sha1Next (W : List Word32) : Word32 :=
  rotl (W.getD 2 0#32 ^^^ W.getD 7 0#32 ^^^ W.getD 13 0#32 ^^^ W.getD 15 0#32) 1

theorem sha1Extend_eq_iterate (n : Nat) (W : List Word32) : sha1Extend n W = (growSchedule sha1Next)^[n] W := by
  induction n generalizing W with
  | zero => rfl
  | succ n ih => exact ih (growSchedule sha1Next W)

/-- `growSchedule_iterate_getD` for the 64 additions to the 16 words of a block. -/
theorem sha1Schedule_getD {m t j : Nat} (B : List Byte) (hm : m ≤ 64) (ht : t + j + 1 = 16 + m) :
    (sha1Schedule B).getD t 0#32 =
      ((growSchedule sha1Next)^[m] ((List.range 16).map (be32 B)).reverse).getD j 0#32 := by
  rw [sha1Schedule, sha1Extend_eq_iterate]
  exact growSchedule_iterate_getD sha1Next _ hm (by simpa using ht)

theorem sha1Schedule_getD_block {t : Nat} (B : List Byte) (ht : t < 16) : (sha1Schedule B).getD t 0#32 = be32 B t := by
  have hentry : 16 - 1 - (15 - t) = t := by omega
  rw [sha1Schedule_getD B (m := 0) (j := 15 - t) (by omega) (by omega), Function.iterate_zero_apply,
    List.getD_reverse _ (by simp; omega), List.length_map, List.length_range, hentry]
  simp [ht]

theorem sha1Schedule_getD_next {t : Nat} (B : List Byte) (hlo : 16 ≤ t) (hhi : t < 80) :
    (sha1Schedule B).getD t 0#32 =
      rotl ((sha1Schedule B).getD (t - 3) 0#32 ^^^ (sha1Schedule B).getD (t - 8) 0#32 ^^^
        (sha1Schedule B).getD (t - 14) 0#32 ^^^ (sha1Schedule B).getD (t - 16) 0#32) 1 := by
  have hpast (j : Nat) (hj : j < 16) :=
    sha1Schedule_getD (m := t - 16) (t := t - (j + 1)) (j := j) B (by omega) (by omega)
  rw [hpast 2 (by decide), hpast 7 (by decide), hpast 13 (by decide), hpast 15 (by decide),
    sha1Schedule_getD B (m := t - 16 + 1) (j := 0) (by omega) (by omega), Function.iterate_succ_apply']
  rfl

/-! ## SHA1Compress (R163 to R170) -/

section

variable {t : Nat} (b c d : Word32)

theorem sha1Phase_ch (h : t ≤ 19) : sha1Fun t b c d = sha1Ch b c d ∧ sha1K t = 0x5a827999#32 :=
  ⟨if_pos h, if_pos h⟩

theorem sha1Phase_parity_low (hlo : 20 ≤ t) (hhi : t ≤ 39) :
    sha1Fun t b c d = sha1Parity b c d ∧ sha1K t = 0x6ed9eba1#32 := by
  have hCh : ¬t ≤ 19 := by omega
  simp only [sha1Fun, sha1K, if_neg hCh, if_pos hhi, and_self]

theorem sha1Phase_maj (hlo : 40 ≤ t) (hhi : t ≤ 59) :
    sha1Fun t b c d = sha1Maj b c d ∧ sha1K t = 0x8f1bbcdc#32 := by
  have hCh : ¬t ≤ 19 := by omega
  have hParity : ¬t ≤ 39 := by omega
  simp only [sha1Fun, sha1K, if_neg hCh, if_neg hParity, if_pos hhi, and_self]

theorem sha1Phase_parity_high (hlo : 60 ≤ t) :
    sha1Fun t b c d = sha1Parity b c d ∧ sha1K t = 0xca62c1d6#32 := by
  have hCh : ¬t ≤ 19 := by omega
  have hParity : ¬t ≤ 39 := by omega
  have hMaj : ¬t ≤ 59 := by omega
  simp only [sha1Fun, sha1K, if_neg hCh, if_neg hParity, if_neg hMaj, and_self]

end

theorem sha1Steps_succ (W : List Word32) (v : Words5) (n : Nat) :
    sha1Steps W v (n + 1) = sha1Step W (sha1Steps W v n) n := by
  simp [sha1Steps, List.range_succ]

/-- Settles O58: the working variables before step `t` are those `sha1Steps` leaves after `t` steps. -/
theorem sha1CompressesInEightySteps : Obligations.Sha1CompressesInEightySteps := by
  intro H B
  refine ⟨fun t => (sha1Schedule B).getD t 0#32, fun t => (sha1Steps (sha1Schedule B) H t).a,
    fun t => (sha1Steps (sha1Schedule B) H t).b, fun t => (sha1Steps (sha1Schedule B) H t).c,
    fun t => (sha1Steps (sha1Schedule B) H t).d, fun t => (sha1Steps (sha1Schedule B) H t).e,
    fun t ht => sha1Schedule_getD_block B ht, fun t hlo hhi => sha1Schedule_getD_next B hlo hhi,
    rfl, rfl, rfl, rfl, rfl, fun t _ => ?_, rfl⟩
  have hstep := sha1Steps_succ (sha1Schedule B) H t
  exact ⟨sha1Fun t _ _ _, sha1K t, sha1Phase_ch _ _ _, sha1Phase_parity_low _ _ _, sha1Phase_maj _ _ _,
    sha1Phase_parity_high _ _ _, congrArg Words5.a hstep, congrArg Words5.b hstep, congrArg Words5.c hstep,
    congrArg Words5.d hstep, congrArg Words5.e hstep⟩

/-! ## Acceptance (R160, R162) -/

/-- Settles O18: the parameters of SHA-1 are BS = 64, LF = 8 and the IV of R162. -/
theorem hashSha1IsAccepted : Obligations.HashSha1IsAccepted :=
  fun _ _ he hb hmay hr hse => exec_accepted .hashSha1 he hb hmay hr hse

end Sys2Proof.Machine
end

section
/-! The statements of spec/44_sha256.md: the schedule SHA-2 has at either width, SHA256Compress step by step (R186 to
R195), the acceptance of HASH.SHA224 and HASH.SHA256 (R180 to R183), and CH and MAJ bit by bit (R190, R191). -/

namespace Sys2Proof.Machine

/-! ## Schedules of SHA-2, at any width (R192, 45_sha512.md R221) -/

section

variable {w n t : Nat} (sig0 sig1 : BitVec w → BitVec w) (M : List (BitVec w))

/-- The next word of a SHA-2 schedule `W`, held newest first (R192, 45_sha512.md R221). -/
def sha2Next (W : List (BitVec w)) : BitVec w :=
  sig1 (W.getD 1 0#w) + W.getD 6 0#w + sig0 (W.getD 14 0#w) + W.getD 15 0#w

/-- The words `M` of a block and the `n` words that follow them, in order. -/
def sha2Schedule (n : Nat) : List (BitVec w) := ((growSchedule (sha2Next sig0 sig1))^[n] M.reverse).reverse

theorem sha2Schedule_getD_block (ht : t < M.length) : (sha2Schedule sig0 sig1 M n).getD t 0#w = M.getD t 0#w := by
  have hentry : M.length - 1 - (M.length - 1 - t) = t := by omega
  rw [sha2Schedule, growSchedule_iterate_getD (m := 0) (j := M.length - 1 - t) _ _ n.zero_le
    (by rw [List.length_reverse]; omega), Function.iterate_zero_apply, List.getD_reverse _ (by omega), hentry]

theorem sha2Schedule_getD_next (hM : M.length = 16) (hlo : 16 ≤ t) (hhi : t < 16 + n) :
    (sha2Schedule sig0 sig1 M n).getD t 0#w =
      sig1 ((sha2Schedule sig0 sig1 M n).getD (t - 2) 0#w) + (sha2Schedule sig0 sig1 M n).getD (t - 7) 0#w +
        sig0 ((sha2Schedule sig0 sig1 M n).getD (t - 15) 0#w) + (sha2Schedule sig0 sig1 M n).getD (t - 16) 0#w := by
  have hentry {m u j : Nat} (hm : m ≤ n) (hu : u + j + 1 = 16 + m) :
      (sha2Schedule sig0 sig1 M n).getD u 0#w =
        ((growSchedule (sha2Next sig0 sig1))^[m] M.reverse).getD j 0#w :=
    growSchedule_iterate_getD _ _ hm (by rwa [List.length_reverse, hM])
  have hpast (j : Nat) (hj : j < 16) := hentry (m := t - 16) (u := t - (j + 1)) (j := j) (by omega) (by omega)
  rw [hpast 1 (by decide), hpast 6 (by decide), hpast 14 (by decide), hpast 15 (by decide),
    hentry (m := t - 16 + 1) (j := 0) (by omega) (by omega), Function.iterate_succ_apply']
  rfl

end

/-! ## SHA256Compress (R186 to R195) -/

theorem sha256Extend_eq_iterate (n : Nat) (W : List Word32) :
    sha256Extend n W = (growSchedule (sha2Next sig0W32 sig1W32))^[n] W := by
  induction n generalizing W with
  | zero => rfl
  | succ n ih => exact ih (growSchedule (sha2Next sig0W32 sig1W32) W)

theorem sha256Schedule_eq (B : List Byte) :
    sha256Schedule B = sha2Schedule sig0W32 sig1W32 ((List.range 16).map (be32 B)) 48 := by
  rw [sha256Schedule, sha256Extend_eq_iterate, sha2Schedule]

theorem sha256Schedule_getD_block {t : Nat} (B : List Byte) (ht : t < 16) :
    (sha256Schedule B).getD t 0#32 = be32 B t := by
  rw [sha256Schedule_eq, sha2Schedule_getD_block _ _ _ (by simpa using ht)]
  simp [ht]

theorem sha256Schedule_getD_next {t : Nat} (B : List Byte) (hlo : 16 ≤ t) (hhi : t < 64) :
    (sha256Schedule B).getD t 0#32 =
      sig1W32 ((sha256Schedule B).getD (t - 2) 0#32) + (sha256Schedule B).getD (t - 7) 0#32 +
        sig0W32 ((sha256Schedule B).getD (t - 15) 0#32) + (sha256Schedule B).getD (t - 16) 0#32 := by
  rw [sha256Schedule_eq]
  exact sha2Schedule_getD_next _ _ _ (by simp) hlo hhi

theorem sha256Steps_succ (W : List Word32) (v : Words8 32) (n : Nat) :
    sha256Steps W v (n + 1) = sha256Step W (sha256Steps W v n) n := by
  simp [sha256Steps, List.range_succ]

/-- Settles O59: the working variables before step `t` are those `sha256Steps` leaves after `t` steps. -/
theorem sha256CompressesInSixtyFourSteps : Obligations.Sha256CompressesInSixtyFourSteps := by
  intro H B
  refine ⟨fun t => (sha256Schedule B).getD t 0#32, fun t => (sha256Steps (sha256Schedule B) H t).a,
    fun t => (sha256Steps (sha256Schedule B) H t).b, fun t => (sha256Steps (sha256Schedule B) H t).c,
    fun t => (sha256Steps (sha256Schedule B) H t).d, fun t => (sha256Steps (sha256Schedule B) H t).e,
    fun t => (sha256Steps (sha256Schedule B) H t).f, fun t => (sha256Steps (sha256Schedule B) H t).g,
    fun t => (sha256Steps (sha256Schedule B) H t).h, fun t ht => sha256Schedule_getD_block B ht,
    fun t hlo hhi => sha256Schedule_getD_next B hlo hhi, rfl, rfl, rfl, rfl, rfl, rfl, rfl, rfl, fun t _ => ?_, rfl⟩
  have hstep := sha256Steps_succ (sha256Schedule B) H t
  exact ⟨_, _, rfl, rfl, congrArg Words8.h hstep, congrArg Words8.g hstep, congrArg Words8.f hstep,
    congrArg Words8.e hstep, congrArg Words8.d hstep, congrArg Words8.c hstep, congrArg Words8.b hstep,
    congrArg Words8.a hstep⟩

/-! ## Acceptance (R180 to R183) -/

/-- Settles O19: the parameters of SHA-224 are BS = 64, LF = 8 and the IV of R183. -/
theorem hashSha224IsAccepted : Obligations.HashSha224IsAccepted :=
  fun _ _ he hb hmay hr hse => exec_accepted .hashSha224 he hb hmay hr hse

/-- Settles O20: the parameters of SHA-256 are those of SHA-224 but for the IV, that of R182. -/
theorem hashSha256IsAccepted : Obligations.HashSha256IsAccepted :=
  fun _ _ he hb hmay hr hse => exec_accepted .hashSha256 he hb hmay hr hse

/-! ## CH and MAJ bit by bit (R190, R191) -/

theorem getLsbD_ch {w i : Nat} (x y z : BitVec w) (hi : i < w) :
    (ch x y z).getLsbD i = if x.getLsbD i then y.getLsbD i else z.getLsbD i := by
  rw [ch, BitVec.getLsbD_xor, BitVec.getLsbD_and, BitVec.getLsbD_and, BitVec.getLsbD_not, decide_eq_true hi]
  cases x.getLsbD i <;> simp

theorem xor_and_pairs_eq_majority (x y z : Bool) :
    ((x && y) ^^ (x && z) ^^ (y && z)) = decide (2 ≤ x.toNat + y.toNat + z.toNat) := by
  revert x y z
  decide

theorem getLsbD_maj {w : Nat} (i : Nat) (x y z : BitVec w) :
    (maj x y z).getLsbD i = decide (2 ≤ (x.getLsbD i).toNat + (y.getLsbD i).toNat + (z.getLsbD i).toNat) := by
  rw [maj, BitVec.getLsbD_xor, BitVec.getLsbD_xor, BitVec.getLsbD_and, BitVec.getLsbD_and, BitVec.getLsbD_and,
    xor_and_pairs_eq_majority]

/-- Settles O55: a bit of CH is its case on x's bit, a bit of MAJ the count of three votes. -/
theorem chSelectsAndMajVotes : Obligations.ChSelectsAndMajVotes :=
  fun _ i x y z => ⟨rfl, rfl, getLsbD_ch x y z, getLsbD_maj i x y z⟩

end Sys2Proof.Machine
end

section
/-! The statements of spec/45_sha512.md: SHA512Compress step by step (R216 to R225), on the schedule SHA-2 has at either
width, and the acceptance of HASH.SHA384 and HASH.SHA512 (R210 to R213). -/

namespace Sys2Proof.Machine

/-! ## SHA512Compress (R216 to R225) -/

theorem sha512Extend_eq_iterate (n : Nat) (W : List Word64) :
    sha512Extend n W = (growSchedule (sha2Next sig0W64 sig1W64))^[n] W := by
  induction n generalizing W with
  | zero => rfl
  | succ n ih => exact ih (growSchedule (sha2Next sig0W64 sig1W64) W)

theorem sha512Schedule_eq (B : List Byte) :
    sha512Schedule B = sha2Schedule sig0W64 sig1W64 ((List.range 16).map (be64 B)) 64 := by
  rw [sha512Schedule, sha512Extend_eq_iterate, sha2Schedule]

theorem sha512Schedule_getD_block {t : Nat} (B : List Byte) (ht : t < 16) :
    (sha512Schedule B).getD t 0#64 = be64 B t := by
  rw [sha512Schedule_eq, sha2Schedule_getD_block _ _ _ (by simpa using ht)]
  simp [ht]

theorem sha512Schedule_getD_next {t : Nat} (B : List Byte) (hlo : 16 ≤ t) (hhi : t < 80) :
    (sha512Schedule B).getD t 0#64 =
      sig1W64 ((sha512Schedule B).getD (t - 2) 0#64) + (sha512Schedule B).getD (t - 7) 0#64 +
        sig0W64 ((sha512Schedule B).getD (t - 15) 0#64) + (sha512Schedule B).getD (t - 16) 0#64 := by
  rw [sha512Schedule_eq]
  exact sha2Schedule_getD_next _ _ _ (by simp) hlo hhi

theorem sha512Steps_succ (W : List Word64) (v : Words8 64) (n : Nat) :
    sha512Steps W v (n + 1) = sha512Step W (sha512Steps W v n) n := by
  simp [sha512Steps, List.range_succ]

/-- Settles O60: the working variables before step `t` are those `sha512Steps` leaves after `t` steps. -/
theorem sha512CompressesInEightySteps : Obligations.Sha512CompressesInEightySteps := by
  intro H B
  refine ⟨fun t => (sha512Schedule B).getD t 0#64, fun t => (sha512Steps (sha512Schedule B) H t).a,
    fun t => (sha512Steps (sha512Schedule B) H t).b, fun t => (sha512Steps (sha512Schedule B) H t).c,
    fun t => (sha512Steps (sha512Schedule B) H t).d, fun t => (sha512Steps (sha512Schedule B) H t).e,
    fun t => (sha512Steps (sha512Schedule B) H t).f, fun t => (sha512Steps (sha512Schedule B) H t).g,
    fun t => (sha512Steps (sha512Schedule B) H t).h, fun t ht => sha512Schedule_getD_block B ht,
    fun t hlo hhi => sha512Schedule_getD_next B hlo hhi, rfl, rfl, rfl, rfl, rfl, rfl, rfl, rfl, fun t _ => ?_, rfl⟩
  have hstep := sha512Steps_succ (sha512Schedule B) H t
  exact ⟨_, _, rfl, rfl, congrArg Words8.h hstep, congrArg Words8.g hstep, congrArg Words8.f hstep,
    congrArg Words8.e hstep, congrArg Words8.d hstep, congrArg Words8.c hstep, congrArg Words8.b hstep,
    congrArg Words8.a hstep⟩

/-! ## Acceptance (R210 to R213) -/

/-- Settles O21: the parameters of SHA-384 are BS = 128, LF = 16 and the IV of R213. -/
theorem hashSha384IsAccepted : Obligations.HashSha384IsAccepted :=
  fun _ _ he hb hmay hr hse => exec_accepted .hashSha384 he hb hmay hr hse

/-- Settles O22: the parameters of SHA-512 are those of SHA-384 but for the IV, that of R212. -/
theorem hashSha512IsAccepted : Obligations.HashSha512IsAccepted :=
  fun _ _ he hb hmay hr hse => exec_accepted .hashSha512 he hb hmay hr hse

end Sys2Proof.Machine
end

section
/-! The statements of spec/60_exceptions.md: the CMD write of an undefined word (R243), the finish of a raced command
(R250), and the end of every command in BUSY (R247, R263). -/

namespace Sys2Proof.Machine

/-! ## The CMD write of an undefined word (R243) -/

/-- The word of every command is one of the six of the opcode map (30_encoding.md R72). -/
theorem encode_mem_commandWords (i : Instr) :
    encode i ∈ [0x00000011#32, 0x00000012#32, 0x00000013#32, 0x00000014#32, 0x00000015#32, 0x00000016#32] := by
  cases i <;> decide

/-- A word outside the opcode map selects no algorithm (30_encoding.md R73). -/
theorem decodedAlg_eq_none {v : Word32}
    (h : v ∉ [0x00000011#32, 0x00000012#32, 0x00000013#32, 0x00000014#32, 0x00000015#32, 0x00000016#32]) :
    decodedAlg v = none := by
  refine Option.isNone_iff_eq_none.mp (decodedAlg_isNone.mpr ?_)
  rintro i rfl
  exact h (encode_mem_commandWords i)

theorem accept_undefined (s : State) (i : Nat) (e : Engine) (v : Word32) :
    accept s i e v none = .next (s.raise i (e.beginCommand v) .unsupportedAlgorithm .nothing) := rfl

/-- Settles O24: the word selects no algorithm, so its acceptance raises UnsupportedAlgorithm before any check. -/
theorem undefinedWordEndsUnsupported : Obligations.UndefinedWordEndsUnsupported := by
  intro s addr j v e hev ht he hb hv
  have he' : State.engine? { s.taken with sel := j } j = some e := (s.engine?_taken j).trans he
  refine ⟨fun x hx => hx, ?_⟩
  rw [step_regWrite_cmd hev ht, runCommand_eq, decodedAlg_eq_none hv, writeCmd_free v none he' hb, accept_undefined,
    ← s.taken_trace, ← s.taken_engines]
  rfl

/-! ## The finish of a raced command (R250) -/

/-- The digest bytes after `S` is written, where `f` gives the bytes of `S` (40_pipeline.md R97). -/
theorem writeDigest_eq_ofFn {S : List Byte} {f : Nat → Byte} (D : Vector Byte 64)
    (hS : ∀ k, k < S.length → S.getD k 0x00#8 = f k) :
    writeDigest D S = Vector.ofFn fun k => if k.val < S.length then f k.val else D[k] := by
  unfold writeDigest
  congr 1
  funext k
  exact ite_congr rfl (hS k.val) fun _ => rfl

theorem racedDigest_getD {draws k : Nat} {alg : Alg} (b : Byte) (hk : k < (racedDigest draws alg).length) :
    (racedDigest draws alg).getD k b = Config.raceDigest draws k := by
  rw [List.getD_eq_getElem _ _ hk]
  simp [racedDigest]

/-- Settles O29: with a race the bytes written are the DL(alg) free ones. -/
theorem racedCommandStillFinishes : Obligations.RacedCommandStillFinishes := by
  intro s i e c he hp hblk hrace
  have hbytes : finishBytes s e c = racedDigest s.draws c.alg := if_pos hrace
  rw [engineStep_finish he hp hblk.ge, finishStep_eq, hbytes,
    writeDigest_eq_ofFn e.digest fun _ => racedDigest_getD _, racedDigest_length, if_pos hrace]

/-! ## Every command in BUSY ends (R247, R263, 70_reset_and_hazards.md R288) -/

/-- The turn of an engine outside BUSY takes the turn alone (40_pipeline.md R110). -/
theorem step_turn_of_not_busy {s : State} {i : Nat} {e : Engine} {turns : List Turn} (he : s.engine? i = some e)
    (hb : e.isBusy = false) (hs : s.sched = .engine i :: turns) : step s = .next { s with sched := turns } := by
  have he' : State.engine? { s with sched := turns } i = some e := he
  rw [step_engine_of_sched hs, engineStep_of_not_busy he' hb]

/-- Turns of an engine outside BUSY use up the list of turns alone. -/
theorem run_turns_of_not_busy {s : State} {i n : Nat} {e : Engine} {rest : List Turn} (he : s.engine? i = some e)
    (hb : e.isBusy = false) (hs : s.sched = List.replicate n (.engine i) ++ rest) :
    Sys2Proof.core.run n s = .next { s with sched := rest } := by
  induction n generalizing s with
  | zero =>
    obtain rfl : s.sched = rest := hs
    rfl
  | succ n ih =>
    exact (core_run_succ n (step_turn_of_not_busy he hb hs)).trans (ih he rfl)

/-- The command of this engine has ended: DONE, with RESULT = OK or AccessFault. -/
def Engine.Ended (e : Engine) : Prop := e.phase = .done ∧ (e.result = .ok ∨ e.result = .accessFault)

theorem Engine.Ended.not_busy {e : Engine} (h : e.Ended) : e.isBusy = false := by
  obtain ⟨hp, -⟩ := h
  simp [Engine.isBusy, hp]

/-- One turn of a BUSY engine does one more block, or ends the command, at the latest when no block is left. -/
theorem busy_turn {s : State} {i : Nat} {e : Engine} {c : Ctx} {turns : List Turn} (he : s.engine? i = some e)
    (hp : e.phase = .busy c) (hs : s.sched = .engine i :: turns) :
    ∃ t e', step s = .next t ∧ t.engine? i = some e' ∧ t.sched = turns ∧
      (e'.Ended ∨ c.blk < c.nblk ∧ ∃ c', e'.phase = .busy c' ∧ c'.blk = c.blk + 1 ∧ c'.nblk = c.nblk) := by
  obtain ⟨-, hbusy⟩ := oneEngineStepIsEnabled { s with sched := turns } i e he
  obtain ⟨e', he', hblock, hfinish⟩ := hbusy c hp
  obtain ⟨-, -, -, hsched, -⟩ := engineStep_frame { s with sched := turns } i
  refine ⟨_, e', step_engine_of_sched hs, he', hsched, ?_⟩
  by_cases hlt : c.blk < c.nblk
  · obtain ⟨c', hp', hblk, hnblk, -⟩ | ⟨hdone, hfault⟩ := hblock hlt
    · exact .inr ⟨hlt, c', hp', hblk, hnblk⟩
    · exact .inl ⟨hdone, .inr hfault⟩
  · obtain ⟨hdone, hok⟩ := hfinish (Nat.not_lt.mp hlt)
    exact .inl ⟨hdone, .inl hok⟩

/-- With `n` blocks left, `n + 1` turns end the command: the turns after an early end change nothing more. -/
theorem run_busy_ends {s : State} {i n : Nat} {e : Engine} {c : Ctx} {rest : List Turn} (he : s.engine? i = some e)
    (hp : e.phase = .busy c) (hn : c.blk + n = c.nblk)
    (hs : s.sched = List.replicate (n + 1) (.engine i) ++ rest) :
    ∃ t e', Sys2Proof.core.run (n + 1) s = .next t ∧ t.engine? i = some e' ∧ e'.Ended := by
  induction n generalizing s e c with
  | zero =>
    obtain ⟨t, e', hstep, he', -, hend | ⟨hlt, -⟩⟩ := busy_turn he hp hs
    · exact ⟨t, e', core_run_succ 0 hstep, he', hend⟩
    · omega
  | succ n ih =>
    obtain ⟨t, e', hstep, he', hsched, hend | ⟨-, c', hp', hblk, hnblk⟩⟩ := busy_turn he hp hs
    · exact ⟨{ t with sched := rest }, e',
        (core_run_succ _ hstep).trans (run_turns_of_not_busy he' hend.not_busy hsched), he', hend⟩
    · rw [core_run_succ _ hstep]
      exact ih he' hp' (by omega) hsched

/-- Settles O44: by induction on the blocks left. -/
theorem busyCommandEnds : Obligations.BusyCommandEnds := by
  intro s i e c rest he hp hle hs
  obtain ⟨t, e', hrun, he', hdone, hres⟩ := run_busy_ends he hp (Nat.add_sub_cancel' hle) hs
  exact ⟨t, e', hrun, he', hdone, hres⟩

end Sys2Proof.Machine
end

section
/-! The statements of spec/70_reset_and_hazards.md: the reset event (R270), the phases (R273), the operands (R275), the
accesses that change nothing (R281), and the packing of the digest registers (R285). -/

namespace Sys2Proof.Machine

/-! ## The reset event (R270) -/

/-- Settles O16: the step takes the reset off the platform's list and replaces the engine by one in reset. -/
theorem resetEventClearsTheInstance : Obligations.ResetEventClearsTheInstance := by
  intro s i e hr he
  obtain ⟨hturn, -⟩ := nextReset_some hr
  have hstep : step s = .next (s.taken.setEngine i e.resetEvent) :=
    (step_resets hr).trans (performReset_of_engine? ((s.engine?_taken i).trans he))
  refine ⟨State.taken_platform hturn, e.resetEvent, ?_, rfl, rfl, rfl, rfl, rfl, rfl, rfl, zeroDigest_get, rfl, rfl,
    e.resetEvent_status⟩
  rw [hstep, State.setEngine, s.taken_engines]

/-! ## The packing of the digest registers (R28, R285) -/

/-- The four digest bytes of DIGESTk, the lowest first. -/
def Engine.digestRegBytes (e : Engine) (k : Fin 16) : List Byte :=
  [e.digest[4 * k.val], e.digest[4 * k.val + 1], e.digest[4 * k.val + 2], e.digest[4 * k.val + 3]]

theorem Engine.digestReg_eq_joinBytes (e : Engine) (k : Fin 16) :
    e.digestReg k = joinBytes 32 (e.digestRegBytes k) := by
  simp only [digestReg, digestRegBytes, joinBytes_cons, joinBytes_nil, BitVec.zero_shiftLeft, BitVec.zero_or,
    BitVec.shiftLeft_or_distrib, ← BitVec.shiftLeft_add, Nat.reduceAdd]
  exact or_reverse ..

theorem Engine.digestRegBytes_getElem? (e : Engine) (k : Fin 16) {j : Nat} (hj : j < 4) :
    (e.digestRegBytes k)[j]? = some e.digest[4 * k.val + j] := by
  interval_cases j <;> rfl

/-- Byte `j` of DIGESTk is digest byte `4k + j`. -/
theorem Engine.digestReg_extract (e : Engine) (k : Fin 16) {j : Nat} (hj : j < 4) :
    (e.digestReg k).extractLsb' (8 * j) 8 = e.digest[4 * k.val + j] := by
  have hbytes : wordBytesLe (e.digestReg k) = e.digestRegBytes k :=
    (congrArg wordBytesLe (e.digestReg_eq_joinBytes k)).trans (wordBytesLe_joinBytes rfl)
  have hword := wordBytesLe_getElem? (e.digestReg k) hj
  rw [hbytes, e.digestRegBytes_getElem? k hj] at hword
  exact (Option.some.inj hword).symm

/-- A register whose four digest bytes lie past DLEN reads 0 (10_state.md R45). -/
theorem Engine.digestReg_past_dlen {e : Engine} {k : Fin 16} (ht : e.TailZero) (hk : e.dlen.toNat ≤ 4 * k.val) :
    e.digestReg k = 0x00000000#32 := by
  have hbyte (j : Nat) (hj : 4 * k.val + j < 64) : e.digest[4 * k.val + j] = 0x00#8 :=
    ht ⟨4 * k.val + j, hj⟩ (Nat.le_add_right_of_le hk)
  have hbyte0 : e.digest[4 * k.val] = 0x00#8 := hbyte 0 (by omega)
  simp [digestReg, hbyte, hbyte0]

theorem digestBytes_mod_four (a : Alg) : digestBytes a % 4 = 0 := by cases a <;> rfl

/-- DLEN is a multiple of 4: it is 0, or the digest length of an algorithm. -/
theorem Engine.dlen_mod_four {p : Platform} {e : Engine} (h : e.Inv p) : e.dlen.toNat % 4 = 0 := by
  by_cases hok : e.isDone = true ∧ e.result = .ok
  · obtain ⟨hd, hr⟩ := hok
    obtain ⟨a, -, hlen⟩ := (phaseOk_ok (e.isDone_iff.mp hd) hr).mp h.1
    rw [hlen, digestBytes_mod_four]
  · rw [dlen_eq_zero_of_inv h hok]
    rfl

/-- Settles O8: DIGESTk joins four digest bytes, and no register is partly past DLEN. -/
theorem digestRegistersHoldTheDigest : Obligations.DigestRegistersHoldTheDigest := by
  refine ⟨fun e i => ?_, fun s i e hinv he => ?_⟩
  · have hk : (Fin.ofNat 16 (i.val / 4)).val = i.val / 4 := Nat.mod_eq_of_lt (by omega)
    have hidx : 4 * (Fin.ofNat 16 (i.val / 4)).val + i.val % 4 = i.val := by rw [hk, Nat.div_add_mod]
    refine (e.digestReg_extract _ (Nat.mod_lt _ (by decide))).trans ?_
    simp only [hidx, Fin.getElem_fin]
  · obtain ⟨-, -, -, hengines⟩ := hinv
    have h : e.Inv s.plat := hengines e (State.mem_of_engine? he)
    have hmod := Engine.dlen_mod_four h
    exact ⟨hmod, fun k hk => Engine.digestReg_past_dlen h.2 (by omega)⟩

/-! ## Accesses that change nothing (R281) -/

/-- A write in BUSY, or of a register that is read-only or reserved, is ignored. -/
theorem Engine.writeReg_ignored {e : Engine} {r : Reg} (v : Word32)
    (h : e.isBusy = true ∨ r = .status ∨ r = .reserved ∨ ∃ k, r = .digest k) : e.writeReg r v = e := by
  obtain hb | rfl | rfl | ⟨k, rfl⟩ := h
  · exact e.writeReg_of_busy r v hb
  · exact e.writeReg_status v
  · exact e.writeReg_reserved v
  · unfold writeReg; split <;> rfl

/-- A CMD write to an engine in BUSY starts no command. -/
theorem runCommand_busy {s : State} {e : Engine} (v : Word32) (he : s.engine? s.sel = some e) (hb : e.isBusy = true) :
    runCommand v s = .next s := by
  rw [runCommand_eq, writeCmd_busy v _ he hb]

/-- Settles O11: a CMD write moves `sel` alone in BUSY, and the other writes put the engine back as it was. -/
theorem ignoredWritesAndHarmlessReads : Obligations.IgnoredWritesAndHarmlessReads := by
  intro s addr i r v e ht he
  refine ⟨fun hev hign => ?_, fun hev => step_regRead_target hev ht he, by rintro rfl; rfl⟩
  have he' : s.taken.engine? i = some e := (s.engine?_taken i).trans he
  by_cases hr : r = .cmd
  · subst hr
    have hb : e.isBusy = true := by simpa using hign
    refine ⟨{ s.taken with sel := i }, (step_regWrite_cmd hev ht).trans (runCommand_busy v he' hb), ?_⟩
    rw [← s.taken_sel]
  · refine ⟨s.taken, ?_, by rw [← s.taken_sel]⟩
    rw [step_regWrite_other hev ht hr he, Engine.writeReg_ignored v hign, State.setEngine_eq_self he']

/-! ## What makes an engine change its phase or its operands (R273, R275) -/

theorem State.target_width {s : State} {addr width i : Nat} {r : Reg} (h : s.target addr width = some (i, r)) :
    width = 4 := by
  obtain ⟨e, -, -, hok, -⟩ := State.target_some h
  simp only [regAccessOk, Bool.and_eq_true, beq_iff_eq] at hok
  obtain ⟨⟨hwidth, -⟩, -⟩ := hok
  exact hwidth

/-- What a step makes of an engine: a host's write of memory is noted, or the engine makes one of its moves. -/
theorem step_noteWrite_or_moves {s t : State} {i : Nat} {e e' : Engine} (h : step s = .next t)
    (he : s.engine? i = some e) (he' : t.engine? i = some e') : (∃ a, e' = e.noteWrite a) ∨ s.Moves i e e' := by
  obtain ⟨a, b, -, rfl⟩ | ⟨-, x, hx, hmove⟩ := step_moves h he
  · obtain rfl : e.noteWrite a = e' := by simpa [he] using he'
    exact .inl ⟨a, rfl⟩
  · obtain rfl : x = e' := Option.some.inj (hx.symm.trans he')
    exact .inr hmove

/-- The next step is a host's CMD write to engine `i`. -/
def State.WritesCmd (s : State) (i : Nat) : Prop :=
  ∃ addr v, s.Performs (.regWrite addr 4 v) ∧ s.target addr 4 = some (i, .cmd)

theorem Engine.Accepted.phase_ne_idle {p : Platform} {e e' : Engine} {v : Word32} {alg : Option Alg}
    (h : e.Accepted p v alg e') : e'.phase ≠ .idle := by
  cases h <;> exact Phase.noConfusion

theorem Engine.afterBlock_phase_ne_idle (e : Engine) (c : Ctx) (g : Gathered) : (e.afterBlock c g).phase ≠ .idle := by
  cases hg : g.refusedAt with
  | some a => rw [afterBlock_refused c hg]; exact Phase.noConfusion
  | none => rw [afterBlock_got c hg]; exact Phase.noConfusion

/-- The phases of an engine around a step: the phase stays, a BUSY engine goes on or ends, the reset gives IDLE, or a
CMD write leaves IDLE or DONE. -/
theorem step_phase_cases {s t : State} {i : Nat} {e e' : Engine} (h : step s = .next t) (he : s.engine? i = some e)
    (he' : t.engine? i = some e') :
    e'.phase = e.phase ∨ ((∃ c, e.phase = .busy c) ∧ e'.phase ≠ .idle) ∨ (s.Resets i ∧ e'.phase = .idle) ∨
      (s.WritesCmd i ∧ e'.phase ≠ .idle) := by
  obtain ⟨a, rfl⟩ | hmove := step_noteWrite_or_moves h he he'
  · exact .inl (e.noteWrite_phase a)
  cases hmove with
  | still => exact .inl rfl
  | block c hp => exact .inr (.inl ⟨⟨c, hp⟩, e.afterBlock_phase_ne_idle c _⟩)
  | finish c hp => exact .inr (.inl ⟨⟨c, hp⟩, Phase.noConfusion⟩)
  | reset hr => exact .inr (.inr (.inl ⟨hr, rfl⟩))
  | write addr width v r => exact .inl (e.writeReg_phase r v)
  | accept addr width v _ hev htgt _ hacc =>
    obtain rfl := State.target_width htgt
    exact .inr (.inr (.inr ⟨⟨addr, v, hev, htgt⟩, hacc.phase_ne_idle⟩))

/-- Under the invariant STATUS reads 0 exactly in IDLE: outside IDLE one of its two phase bits is set. -/
theorem Engine.status_eq_zero_iff {p : Platform} {e : Engine} (h : e.Inv p) : e.status = 0#32 ↔ e.phase = .idle := by
  constructor
  · intro hst
    refine e.phase_eq_idle_iff.mpr ⟨?_, ?_⟩
    · rw [← e.status_busyBit, hst]; rfl
    · rw [← e.status_doneBit, hst]; rfl
  · intro hp
    obtain ⟨-, hres, hdlen, -⟩ := (phaseOk_idle hp).mp h.1
    simp [status, isBusy, isDone, hp, hres, hdlen, Result.code]

/-- Settles O38: the three clauses in each of the four cases of a step's phases, and STATUS by its phase bits. -/
theorem phasesChangeOnlyAsStated : Obligations.PhasesChangeOnlyAsStated := by
  intro s t i e e' h he he'
  have hstatus (hinv : s.Inv) : e.readReg .status = 0#32 ↔ e.phase = .idle := by
    obtain ⟨-, -, -, hengines⟩ := hinv
    exact Engine.status_eq_zero_iff (hengines e (State.mem_of_engine? he))
  obtain heq | ⟨⟨c, hp⟩, hne⟩ | ⟨hr, hidle⟩ | ⟨hw, hne⟩ := step_phase_cases h he he'
  · rw [heq]
    exact ⟨.inl, fun hidle hne => absurd hidle hne, fun hdone hne => absurd hdone hne, hstatus⟩
  · exact ⟨fun hidle => absurd hidle hne, fun hidle => Phase.noConfusion (hp.symm.trans hidle),
      fun hdone => Phase.noConfusion (hp.symm.trans hdone), hstatus⟩
  · exact ⟨fun _ => .inr hr, fun _ hne => absurd hidle hne, fun _ _ => .inl hr, hstatus⟩
  · exact ⟨fun hp => absurd hp hne, fun _ _ => hw, fun _ _ => .inr hw, hstatus⟩

/-- The moves by operands: they stay, the engine is reset, or a host writes one of its registers outside BUSY. -/
theorem State.Moves.operand_cases {s : State} {i : Nat} {e e' : Engine} (h : s.Moves i e e') :
    e.SameOperands e' ∨ s.Resets i ∨
      (e.isBusy = false ∧ ∃ addr v r, s.Performs (.regWrite addr 4 v) ∧ s.target addr 4 = some (i, r)) := by
  cases h with
  | still => exact .inl ⟨rfl, rfl, rfl, rfl, rfl⟩
  | block c => exact .inl (e.sameOperands_afterBlock c _)
  | finish c => exact .inl ⟨rfl, rfl, rfl, rfl, rfl⟩
  | reset hr => exact .inr (.inl hr)
  | write addr width v r hev htgt hfree =>
    obtain rfl := State.target_width htgt
    exact .inr (.inr ⟨hfree, addr, v, r, hev, htgt⟩)
  | accept addr width v _ hev htgt hfree =>
    obtain rfl := State.target_width htgt
    exact .inr (.inr ⟨hfree, addr, v, .cmd, hev, htgt⟩)

/-- Settles O39: a noted write of memory keeps the operands, and every move that changes them is one of the two. -/
theorem onlyHostWritesChangeTheOperands : Obligations.OnlyHostWritesChangeTheOperands := by
  intro s t i e e' h he he' hchange
  obtain ⟨a, rfl⟩ | hmove := step_noteWrite_or_moves h he he'
  · simp at hchange
  · obtain hsame | hcause := hmove.operand_cases
    · simp [hsame.cmd, hsame.msgBase, hsame.msgLen] at hchange
    · exact hcause

end Sys2Proof.Machine
end
